-- ==== Sys2Proof/Word.lean ====
section
/-!
DEFINITION. The words and values of the pulse_oscillator block: operand words, whole operations,
floating-point values and the small enumerations. Arithmetic on floating-point values is in
Machine/Float.lean.
-/

namespace Sys2Proof

/-- A 32-bit operand word W0 to W3 (R60). -/
abbrev Word := BitVec 32

/-- One whole operation of 130 bits: OP at 129:128, then W3, W2, W1, W0 (R60). -/
abbrev OpBits := BitVec 130

/-- FP_FORMAT, the floating-point format parameter (R10, D5). The spec's default is `binary32`.
DESIGN CHOICE (assumption 4): the parameter ranges over the three IEEE 754 binary formats in which
every sample rate, frequency and volume is exact. -/
inductive FpFormat where
  | binary32
  | binary64
  | binary128
  deriving DecidableEq, Repr

/-- A value of FP_FORMAT (R10, R15). A finite value is a sign and a magnitude counted in units of the
format's smallest positive subnormal, so every finite value of the format has exactly one
representation and the order of magnitudes is the order of naturals. Which magnitudes belong to a
format is `Sys2Proof.Machine.representable` (assumption 5). -/
inductive Fp where
  /-- Not a number; the model keeps no payload. -/
  | nan
  /-- An infinity, negative when the flag is true. -/
  | inf (neg : Bool)
  /-- A finite value, zeros and subnormals included. -/
  | fin (neg : Bool) (mag : Nat)
  deriving DecidableEq, Repr

/-- The value of `ch[3].lastRandom`: one of -1, 0 and +1 (R35). -/
inductive LastRandom where
  | minusOne
  | zero
  | plusOne
  deriving DecidableEq, Repr

/-- OUT_ENDIAN, the byte order of a serialised output sample (R11). -/
inductive Endian where
  | little
  | big
  deriving DecidableEq, Repr

/-- The four channels, by their fixed roles (R2): pulse 0, pulse 1, triangle, noise. -/
inductive Chan where
  | p0
  | p1
  | tri
  | noise
  deriving DecidableEq, Repr

end Sys2Proof
end

