-- ==== Sys2Proof/Syntax.lean ====
section
/-!
DEFINITION. The operations of the block: one constructor per row of spec/opcode_table.json (R73).
-/

namespace Sys2Proof

/-- The seven rows of the opcode map (R73). Each carries all four operand words, the ignored bits
included, because a refusal records the operation's bits (R161). The fields inside the words are
read in Machine/Operands.lean. -/
inductive Instr where
  /-- TICK, OP = 0 (R144): produce one frame. -/
  | tick (w0 w1 w2 w3 : Word)
  /-- TONE.P0, OP = 1 and W3[1:0] = 0 (R90): pulse channel 0. -/
  | toneP0 (w0 w1 w2 w3 : Word)
  /-- TONE.P1, OP = 1 and W3[1:0] = 1 (R90): pulse channel 1. -/
  | toneP1 (w0 w1 w2 w3 : Word)
  /-- TONE.TRI, OP = 1 and W3[1:0] = 2 (R90): triangle channel 2. -/
  | toneTri (w0 w1 w2 w3 : Word)
  /-- TONE.NOISE, OP = 1 and W3[1:0] = 3 (R90): noise channel 3. -/
  | toneNoise (w0 w1 w2 w3 : Word)
  /-- INIT, OP = 2 (R150): configure and reset. -/
  | init (w0 w1 w2 w3 : Word)
  /-- RESERVED, OP = 3 (R151): refused. -/
  | reserved (w0 w1 w2 w3 : Word)
  deriving DecidableEq, Repr

end Sys2Proof
end

