-- ==== Sys2Proof/WellFormed.lean ====
section
/-!
DEFINITION. Which terms of `Instr` stand for an operation: a TONE row's flags word must select that
row's channel (R65, R73). Every other bit of every word may have any value (R69, R70).
-/

namespace Sys2Proof

/-- The channel field `W3[1:0]` of a flags word (R65). -/
def channelBits (w3 : Word) : BitVec 2 := w3.extractLsb' 0 2

/-- A term is well-formed when its words are words of its own row of the opcode map (R73). -/
def Instr.wellFormed : Instr → Bool
  | .tick _ _ _ _ => true
  | .toneP0 _ _ _ w3 => channelBits w3 == 0#2
  | .toneP1 _ _ _ w3 => channelBits w3 == 1#2
  | .toneTri _ _ _ w3 => channelBits w3 == 2#2
  | .toneNoise _ _ _ w3 => channelBits w3 == 3#2
  | .init _ _ _ _ => true
  | .reserved _ _ _ _ => true

end Sys2Proof
end

