-- ==== Sys2Proof/Decode.lean ====
section
/-!
DEFINITION. The decoder of 130-bit operations, total by R73, the encoder, the opcode map as data, and
the reading of the host's table words.
-/

namespace Sys2Proof

/-- OP, bits 129:128 of an operation (R60). -/
def opField (w : OpBits) : BitVec 2 := w.extractLsb' 128 2

/-- W3, bits 127:96 of an operation (R60). -/
def w3Field (w : OpBits) : Word := w.extractLsb' 96 32

/-- W2, bits 95:64 of an operation (R60). -/
def w2Field (w : OpBits) : Word := w.extractLsb' 64 32

/-- W1, bits 63:32 of an operation (R60). -/
def w1Field (w : OpBits) : Word := w.extractLsb' 32 32

/-- W0, bits 31:0 of an operation (R60). -/
def w0Field (w : OpBits) : Word := w.extractLsb' 0 32

/-- The operation with the given select code and operand words, laid out as R60 says. -/
def assemble (op : BitVec 2) (w0 w1 w2 w3 : Word) : OpBits := op ++ w3 ++ w2 ++ w1 ++ w0

/-- The decode key `S = OP << 32 | W3` (R60). -/
def keyOf (w : OpBits) : BitVec 34 := opField w ++ w3Field w

/-- The TONE variant that `W3[1:0]` selects (R65, R90). -/
def decodeTone (w0 w1 w2 w3 : Word) : Instr :=
  if channelBits w3 = 0#2 then .toneP0 w0 w1 w2 w3
  else if channelBits w3 = 1#2 then .toneP1 w0 w1 w2 w3
  else if channelBits w3 = 2#2 then .toneTri w0 w1 w2 w3
  else .toneNoise w0 w1 w2 w3

/-- The row that a select code and four operand words name (R61). -/
def decodeFields (op : BitVec 2) (w0 w1 w2 w3 : Word) : Instr :=
  if op = 0#2 then .tick w0 w1 w2 w3
  else if op = 1#2 then decodeTone w0 w1 w2 w3
  else if op = 2#2 then .init w0 w1 w2 w3
  else .reserved w0 w1 w2 w3

/-- The decoder. Every 130-bit operation is a word of exactly one row (R73), so none is rejected;
OP = 3 decodes to `reserved`, whose meaning is the refusal of R151. -/
def decode (w : OpBits) : Instr :=
  decodeFields (opField w) (w0Field w) (w1Field w) (w2Field w) (w3Field w)

/-- Why a number is no operation. -/
inductive DecodeError where
  /-- The number has a one above bit 129; an operation has exactly 130 bits (R60). -/
  | tooWide
  deriving DecidableEq, Repr

/-- The decoder on any number: one wider than an operation is rejected by name. -/
def decodeNat (n : Nat) : Except DecodeError Instr :=
  if n < 2 ^ 130 then .ok (decode (BitVec.ofNat 130 n)) else .error .tooWide

/-- The select code of each row (R61). -/
def Instr.opCode : Instr → BitVec 2
  | .tick _ _ _ _ => 0#2
  | .toneP0 _ _ _ _ => 1#2
  | .toneP1 _ _ _ _ => 1#2
  | .toneTri _ _ _ _ => 1#2
  | .toneNoise _ _ _ _ => 1#2
  | .init _ _ _ _ => 2#2
  | .reserved _ _ _ _ => 3#2

/-- The encoder, from the layout of R60 and the select codes of R61. -/
def encode (i : Instr) : OpBits :=
  match i with
  | .tick w0 w1 w2 w3 => assemble i.opCode w0 w1 w2 w3
  | .toneP0 w0 w1 w2 w3 => assemble i.opCode w0 w1 w2 w3
  | .toneP1 w0 w1 w2 w3 => assemble i.opCode w0 w1 w2 w3
  | .toneTri w0 w1 w2 w3 => assemble i.opCode w0 w1 w2 w3
  | .toneNoise w0 w1 w2 w3 => assemble i.opCode w0 w1 w2 w3
  | .init w0 w1 w2 w3 => assemble i.opCode w0 w1 w2 w3
  | .reserved w0 w1 w2 w3 => assemble i.opCode w0 w1 w2 w3

/-- `match` and `mask` of a row on the decode key S, as the opcode map of R73 lists them. -/
def Instr.rowMatchMask : Instr → BitVec 34 × BitVec 34
  | .tick _ _ _ _ => (0x000000000#34, 0x300000000#34)
  | .toneP0 _ _ _ _ => (0x100000000#34, 0x300000003#34)
  | .toneP1 _ _ _ _ => (0x100000001#34, 0x300000003#34)
  | .toneTri _ _ _ _ => (0x100000002#34, 0x300000003#34)
  | .toneNoise _ _ _ _ => (0x100000003#34, 0x300000003#34)
  | .init _ _ _ _ => (0x200000000#34, 0x300000000#34)
  | .reserved _ _ _ _ => (0x300000000#34, 0x300000000#34)

/-- The opcode map of R73 in the table's order: `match` and `mask` on S. -/
def opcodeMap : List (BitVec 34 × BitVec 34) :=
  [(0x000000000#34, 0x300000000#34), (0x100000000#34, 0x300000003#34),
   (0x100000001#34, 0x300000003#34), (0x100000002#34, 0x300000003#34),
   (0x100000003#34, 0x300000003#34), (0x200000000#34, 0x300000000#34),
   (0x300000000#34, 0x300000000#34)]

/-- The operation a word of the host's opcode table stands for. The table numbers its rows' bits on
the 34-bit key S = OP << 32 | W3 (40 bits in whole bytes) and gives W0, W1 and W2 no bits, so they are
zero; a longer word is a whole operation as R60 numbers it. None where a bit stands above the key or
above the operation (assumption 10). -/
def tableOperation (nbits w : Nat) : Option OpBits :=
  if nbits ≤ 40 then
    if w < 2 ^ 34 then
      some (assemble (BitVec.ofNat 2 (w / 2 ^ 32)) 0#32 0#32 0#32 (BitVec.ofNat 32 w))
    else none
  else if w < 2 ^ 130 then some (BitVec.ofNat 130 w)
  else none

/-- What the decoder reads from a word of the host's opcode table. -/
def decodeTableWord (nbits w : Nat) : Option Instr := (tableOperation nbits w).map decode

end Sys2Proof
end

