-- ==== Sys2Proof/Config.lean ====
section
/-!
DEFINITION. The parameters the spec leaves to an implementation (R8 to R11) and the one free value.
-/

namespace Sys2Proof

/-- The parameters of R8 to R11. A value of this type is a field of State that no step writes, so a
statement about every state holds for every choice of the parameters (assumption 3). -/
structure Config where
  /-- FP_FORMAT (R10). -/
  fpFormat : FpFormat
  /-- NOISE_SEED_INIT (R8); the spec demands that it be nonzero. -/
  noiseSeedInit : BitVec 16
  /-- LAST_RANDOM_INIT (R9). -/
  lastRandomInit : LastRandom
  /-- OUT_ENDIAN (R11). -/
  outEndian : Endian
  deriving DecidableEq, Repr

/-- The spec's defaults: binary32 (D5), seed 0x0001 (D19), lastRandom 0 (D20), little-endian (D25). -/
def Config.default : Config :=
  { fpFormat := .binary32, noiseSeedInit := 1#16, lastRandomInit := .zero, outEndian := .little }

/-- What R8 demands of the parameters: the initial seed is nonzero. The other parameters have no
illegal value of their type. -/
abbrev Config.Legal (c : Config) : Prop := c.noiseSeedInit ≠ 0#16

/-- FREE VALUE (assumption 6): the integer that `trunc` gives for a value that is not finite. R15
defines `trunc` on finite values only. Nothing in Lean can evaluate it. -/
opaque Config.truncNonFinite : Fp → Int

end Sys2Proof
end

