-- ==== Sys2Proof/Machine/Float.lean ====
section
/-!
DEFINITION. The floating-point primitives of R15 in FP_FORMAT (R10): round to nearest, ties to even,
one rounding per operation, no fused multiply-add, subnormals kept. Magnitudes are naturals counted
in units of the format's smallest positive subnormal (Word.lean, assumption 5).
-/

namespace Sys2Proof.Machine

/-- The precision of a format: how many significant bits a finite value has (IEEE 754). -/
def prec : FpFormat → Nat
  | .binary32 => 24
  | .binary64 => 53
  | .binary128 => 113

/-- The unit of a format is 2 to the power minus this: its smallest positive subnormal. -/
def unitExp : FpFormat → Nat
  | .binary32 => 149
  | .binary64 => 1074
  | .binary128 => 16494

/-- Finite values of a format lie below 2 to this power. -/
def topExp : FpFormat → Nat
  | .binary32 => 128
  | .binary64 => 1024
  | .binary128 => 16384

/-- How many units make 1.0. -/
def oneMag (m : FpFormat) : Nat := 2 ^ unitExp m

/-- The first magnitude beyond the finite values. -/
def limitMag (m : FpFormat) : Nat := 2 ^ (topExp m + unitExp m)

/-- How many low bits of a magnitude `q` are lost when it is kept to `p` significant bits. -/
def excessBits (p q : Nat) : Nat := Nat.log2 q + 1 - p

/-- The quotient `num / den` rounded to the nearest natural, ties to even. -/
def roundDiv (num den : Nat) : Nat :=
  let q := num / den
  let twice := 2 * (num % den)
  if den < twice ∨ (twice = den ∧ q % 2 = 1) then q + 1 else q

/-- The quotient `num / den` rounded to the nearest magnitude of at most `p` significant bits, ties to
even. Below `2 ^ p` every natural is such a magnitude, which is the subnormal grid. -/
def roundMag (p num den : Nat) : Nat :=
  roundDiv num (den * 2 ^ excessBits p (num / den)) * 2 ^ excessBits p (num / den)

/-- A rounded magnitude as a value: an infinity where it is past the finite range (IEEE 754 overflow
under round to nearest). -/
def packMag (m : FpFormat) (neg : Bool) (mag : Nat) : Fp :=
  if limitMag m ≤ mag then .inf neg else .fin neg mag

/-- The value nearest to plus or minus `num / den` units. -/
def roundTo (m : FpFormat) (neg : Bool) (num den : Nat) : Fp :=
  packMag m neg (roundMag (prec m) num den)

/-- The finite values that belong to a format: at most `prec` significant bits, inside the range. -/
def representable (m : FpFormat) : Fp → Bool
  | .fin _ mag => mag % 2 ^ excessBits (prec m) mag == 0 && decide (mag < limitMag m)
  | .inf _ => true
  | .nan => true

/-- The signed magnitude of a finite value, in units. -/
def signedMag (neg : Bool) (mag : Nat) : Int := if neg then -(mag : Int) else (mag : Int)

/-- `fp(n)`: the value nearest to an integer (R15). -/
def fp (m : FpFormat) (n : Int) : Fp := roundTo m (decide (n < 0)) (n.natAbs * oneMag m) 1

/-- The literal 0. -/
def fpZero : Fp := .fin false 0

/-- The literal 1 (R15: exactly representable). -/
def fpOne (m : FpFormat) : Fp := .fin false (oneMag m)

/-- The literal 2. -/
def fpTwo (m : FpFormat) : Fp := .fin false (2 ^ (unitExp m + 1))

/-- The literal 0.5. -/
def fpHalf (m : FpFormat) : Fp := .fin false (2 ^ (unitExp m - 1))

/-- The literal 0.25. -/
def fpQuarter (m : FpFormat) : Fp := .fin false (2 ^ (unitExp m - 2))

/-- The literal 0.125. -/
def fpEighth (m : FpFormat) : Fp := .fin false (2 ^ (unitExp m - 3))

/-- The negation of a value. -/
def fneg : Fp → Fp
  | .nan => .nan
  | .inf n => .inf (!n)
  | .fin n a => .fin (!n) a

/-- `fabs`: the sign cleared (R15). -/
def fabs : Fp → Fp
  | .nan => .nan
  | .inf _ => .inf false
  | .fin _ a => .fin false a

/-- The correctly rounded sum of two finite values; an exact zero sum of opposite signs is +0. -/
def faddFin (m : FpFormat) (n1 : Bool) (a : Nat) (n2 : Bool) (b : Nat) : Fp :=
  if n1 = n2 then roundTo m n1 (a + b) 1
  else if b < a then roundTo m n1 (a - b) 1
  else if a < b then roundTo m n2 (b - a) 1
  else .fin false 0

/-- `fadd` (R15). -/
def fadd (m : FpFormat) : Fp → Fp → Fp
  | .nan, _ => .nan
  | _, .nan => .nan
  | .inf n1, .inf n2 => if n1 = n2 then .inf n1 else .nan
  | .inf n1, .fin _ _ => .inf n1
  | .fin _ _, .inf n2 => .inf n2
  | .fin n1 a, .fin n2 b => faddFin m n1 a n2 b

/-- `fsub` (R15). -/
def fsub (m : FpFormat) (x y : Fp) : Fp := fadd m x (fneg y)

/-- `fmul` (R15). -/
def fmul (m : FpFormat) : Fp → Fp → Fp
  | .nan, _ => .nan
  | _, .nan => .nan
  | .inf n1, .inf n2 => .inf (n1 != n2)
  | .inf n1, .fin n2 b => if b = 0 then .nan else .inf (n1 != n2)
  | .fin n1 a, .inf n2 => if a = 0 then .nan else .inf (n1 != n2)
  | .fin n1 a, .fin n2 b => roundTo m (n1 != n2) (a * b) (oneMag m)

/-- `fdiv` (R15), with the IEEE results for a zero or infinite divisor. -/
def fdiv (m : FpFormat) : Fp → Fp → Fp
  | .nan, _ => .nan
  | _, .nan => .nan
  | .inf _, .inf _ => .nan
  | .inf n1, .fin n2 _ => .inf (n1 != n2)
  | .fin n1 _, .inf n2 => .fin (n1 != n2) 0
  | .fin n1 a, .fin n2 b =>
    if b = 0 then (if a = 0 then .nan else .inf (n1 != n2))
    else roundTo m (n1 != n2) (a * oneMag m) b

/-- `trunc`: a finite value rounded toward zero (R15). For a value that is not finite R15 gives no
result: the free value `Config.truncNonFinite` (assumption 6). -/
def trunc (m : FpFormat) : Fp → Int
  | .fin n a => signedMag n (a / oneMag m)
  | .inf n => Config.truncNonFinite (.inf n)
  | .nan => Config.truncNonFinite .nan

/-- The IEEE ordered comparison `x < y` (R15); `x > y` is `flt y x`. -/
def flt : Fp → Fp → Bool
  | .nan, _ => false
  | _, .nan => false
  | .inf n1, .inf n2 => n1 && !n2
  | .inf n1, .fin _ _ => n1
  | .fin _ _, .inf n2 => !n2
  | .fin n1 a, .fin n2 b => decide (signedMag n1 a < signedMag n2 b)

/-- The IEEE ordered comparison `x <= y` (R15); `x >= y` is `fle y x`. -/
def fle : Fp → Fp → Bool
  | .nan, _ => false
  | _, .nan => false
  | .inf n1, .inf n2 => n1 || !n2
  | .inf n1, .fin _ _ => n1
  | .fin _ _, .inf n2 => !n2
  | .fin n1 a, .fin n2 b => decide (signedMag n1 a ≤ signedMag n2 b)

/-- The position of the sign bit in the interchange format. -/
def signBit : FpFormat → Nat
  | .binary32 => 31
  | .binary64 => 63
  | .binary128 => 127

/-- The IEEE interchange bit pattern of a value: the form in which 95_test_vectors.md writes
floating-point values. None for a NaN, whose payload the model does not keep. -/
def fpBits (m : FpFormat) : Fp → Option Nat
  | .nan => none
  | .inf n => some ((if n then 1 else 0) * 2 ^ signBit m + (2 * topExp m - 1) * 2 ^ (prec m - 1))
  | .fin n a =>
    some ((if n then 1 else 0) * 2 ^ signBit m +
      (excessBits (prec m) a * 2 ^ (prec m - 1) + a / 2 ^ excessBits (prec m) a))

end Sys2Proof.Machine
end

