-- ==== Sys2Proof/Machine/State.lean ====
section
/-!
DEFINITION. The state of the block (R20), the reasons a step can stop, and the state at power-on (R180).
-/

namespace Sys2Proof.Machine

/-- The fields every channel record has (R26 to R31). The role-specific fields (R36) are `duty0`,
`duty1`, `seed` and `lastRandom` of `State`. -/
structure Channel where
  /-- Start frequency in Hz (R26). -/
  freq1 : BitVec 16
  /-- End frequency in Hz; 0 means no sweep (R26). -/
  freq2 : BitVec 16
  /-- The sample time of the last TONE (R27). -/
  startTime : BitVec 64
  /-- End of the attack phase (R27). -/
  attackTime : BitVec 64
  /-- End of the decay phase (R27). -/
  decayTime : BitVec 64
  /-- End of the sustain phase (R27). -/
  sustainTime : BitVec 64
  /-- End of the release phase (R27). -/
  releaseTime : BitVec 64
  /-- Envelope level at the end of the attack (R29). -/
  peakVolume : BitVec 16
  /-- Envelope level of the sustain phase (R29). -/
  sustainVolume : BitVec 16
  /-- Oscillator phase, or the noise accumulator of channel 3 (R30). -/
  phase : Fp
  /-- Stereo placement: 0 centre, 1 left, 2 right, 3 centre (R31). -/
  pan : BitVec 2
  deriving DecidableEq, Repr

/-- One stereo frame: a left and a right signed 16-bit sample (R52, R144). Also the pair of
accumulators a TICK sums into (R142). -/
structure Frame where
  left : BitVec 16
  right : BitVec 16
  deriving DecidableEq, Repr

/-- The part of the noise channel that the noise loop reads and writes (R130, R131). -/
structure NoiseGen where
  phase : Fp
  seed : BitVec 16
  lastRandom : LastRandom
  deriving DecidableEq, Repr

/-- Why the machine can be stuck. The block itself raises no exception (R160). -/
inductive Fault where
  /-- Raised by TICK when a phase loop of R120 or R130 would never end, the case R133 and R165 name:
  the accumulator is so large that subtracting 1 no longer lowers it. Safe: the spec's TICK has no
  result there, and no legal state reaches it (assumption 8). -/
  | loopNeverEnds
  deriving DecidableEq, Repr

/-- The refusals of R161, each with what the table of R161 says is recorded; `op` is the select code. -/
inductive Refusal where
  /-- Raised by an arm of `exec` that has no meaning yet. Safe: the machine stops. No arm raises it. -/
  | notModelled (mnemonic : String)
  /-- Raised by TONE and TICK while `inited` is 0 (R162). Safe: the spec's own refusal. -/
  | notInitialised (op : BitVec 2) (w0 w1 w2 w3 : Word)
  /-- Raised by TICK when `time` is 2^64 - 1 (R163). Safe: the spec's own refusal. -/
  | timeOverflow (op : BitVec 2)
  /-- Raised by TONE when the release marker would exceed 2^64 - 1 (R164). Safe: the spec's own. -/
  | markerOverflow (op : BitVec 2) (w0 w1 w2 w3 : Word) (time : BitVec 64)
  /-- Raised by INIT for a sample rate outside 1000..16777215 (R165). Safe: the spec's own refusal. -/
  | badSampleRate (op : BitVec 2) (w0 : Word)
  /-- Raised by INIT for a maximum volume above 32767 (R165). Safe: the spec's own refusal. -/
  | badMaxVolume (op : BitVec 2) (w1 w2 : Word)
  /-- Raised by RESERVED always (R151, R166). Safe: the spec's own refusal. -/
  | reservedOperation (op : BitVec 2) (w0 w1 w2 w3 : Word)
  deriving DecidableEq, Repr

/-- The state. The first three fields are the model's own (R20 says the parameters and the two streams
are not architectural state; assumptions 1 and 3); the others are exactly the state of R20. -/
structure State where
  /-- The parameters of R8 to R11. No step writes them. -/
  config : Config
  /-- The operations the host has issued and the block has not executed, oldest first (R55). -/
  ops : List OpBits
  /-- The frames emitted so far, oldest first (R16, R144). -/
  frames : List Frame
  /-- `cfg.SR`, the sample rate (R21). -/
  cfgSR : BitVec 32
  /-- `cfg.MAXV`, the maximum volume of channels 0, 1 and 3 (R22). -/
  cfgMAXV : BitVec 16
  /-- `cfg.MAXV_TRI`, the maximum volume of channel 2 (R23). -/
  cfgMAXVTRI : BitVec 16
  /-- The global sample-time counter (R24). -/
  time : BitVec 64
  /-- The initialisation status bit (R25). -/
  inited : Bool
  /-- Channel 0, pulse (R2). -/
  ch0 : Channel
  /-- Channel 1, pulse (R2). -/
  ch1 : Channel
  /-- Channel 2, triangle (R2). -/
  ch2 : Channel
  /-- Channel 3, noise (R2). -/
  ch3 : Channel
  /-- `ch[0].dutyCycle` (R32). -/
  duty0 : Fp
  /-- `ch[1].dutyCycle` (R32). -/
  duty1 : Fp
  /-- `ch[3].seed`, the LFSR state (R34). -/
  seed : BitVec 16
  /-- `ch[3].lastRandom` (R35). -/
  lastRandom : LastRandom
  deriving DecidableEq, Repr

/-- The values INIT gives the fields every channel has (R150, R181). -/
def Channel.cleared : Channel :=
  { freq1 := 0#16, freq2 := 0#16, startTime := 0#64, attackTime := 0#64, decayTime := 0#64
    sustainTime := 0#64, releaseTime := 0#64, peakVolume := 0#16, sustainVolume := 0#16
    phase := fpZero, pan := 0#2 }

/-- The state at power-on (R180): `inited` is 0 and nothing has been issued or emitted. R180 gives no
other field a value; the values here are the model's (DESIGN CHOICE, assumption 7) and no operation
reads them: TONE and TICK are refused (R162) and INIT writes every one (R150). -/
def State.reset : State :=
  { config := Config.default, ops := [], frames := []
    cfgSR := 0#32, cfgMAXV := 0#16, cfgMAXVTRI := 0#16, time := 0#64, inited := false
    ch0 := Channel.cleared, ch1 := Channel.cleared, ch2 := Channel.cleared, ch3 := Channel.cleared
    duty0 := fpQuarter Config.default.fpFormat, duty1 := fpQuarter Config.default.fpFormat
    seed := Config.default.noiseSeedInit, lastRandom := Config.default.lastRandomInit }

end Sys2Proof.Machine
end

