-- ==== Sys2Proof/Machine/Ops.lean ====
section
/-!
DEFINITION. The named operations over the state: taking the next operation of the host's stream,
emitting a frame, reading and writing a channel record, refusing an operation. The block has no
exception to take and none to return from (R160, R169): a refusal is its only stop.
-/

namespace Sys2Proof.Machine

/-- What every operation answers. -/
abbrev Answer := Host.Outcome State Fault Refusal

/-- The next operation of the stream and the state without it; none when the host has issued no more
(R55). -/
def takeOperation (s : State) : Option (OpBits × State) :=
  match s.ops with
  | [] => none
  | w :: rest => some (w, { s with ops := rest })

/-- An operation placed at the head of the stream, so that the next step executes it. -/
def pushOperation (w : OpBits) (s : State) : State := { s with ops := w :: s.ops }

/-- `emit(L, R)`: one frame appended to the output stream (R16). -/
def emit (f : Frame) (s : State) : State := { s with frames := s.frames ++ [f] }

/-- `time <- t` (R144). -/
def setTime (t : BitVec 64) (s : State) : State := { s with time := t }

/-- The record of a channel (R16: `ch[i]`). -/
def chan (s : State) : Chan → Channel
  | .p0 => s.ch0
  | .p1 => s.ch1
  | .tri => s.ch2
  | .noise => s.ch3

/-- The record of a channel written (R16: `ch[i] <- v`); no other channel's record is touched. -/
def setChan (i : Chan) (v : Channel) (s : State) : State :=
  match i with
  | .p0 => { s with ch0 := v }
  | .p1 => { s with ch1 := v }
  | .tri => { s with ch2 := v }
  | .noise => { s with ch3 := v }

/-- `ch[i].phase <- p`. -/
def setPhase (i : Chan) (p : Fp) (s : State) : State := setChan i { chan s i with phase := p } s

/-- `ch[i].dutyCycle <- d` on a pulse channel; the other channels have no such field (R32, R36). -/
def setDuty (i : Chan) (d : Fp) (s : State) : State :=
  match i with
  | .p0 => { s with duty0 := d }
  | .p1 => { s with duty1 := d }
  | .tri => s
  | .noise => s

/-- The noise channel's generator, read (R130). -/
def noiseGen (s : State) : NoiseGen :=
  { phase := s.ch3.phase, seed := s.seed, lastRandom := s.lastRandom }

/-- The noise channel's generator, written (R130, R131). -/
def setNoiseGen (g : NoiseGen) (s : State) : State :=
  { setPhase .noise g.phase s with seed := g.seed, lastRandom := g.lastRandom }

/-- The maximum volume that applies to a channel: `cfg.MAXV_TRI` for the triangle, `cfg.MAXV` for the
others (R95). -/
def maxVolumeOf (s : State) : Chan → BitVec 16
  | .p0 => s.cfgMAXV
  | .p1 => s.cfgMAXV
  | .tri => s.cfgMAXVTRI
  | .noise => s.cfgMAXV

/-- The initial value of a channel's phase when it is retriggered: 0.25 for the triangle, 0 for the
others (R91, C2). -/
def retriggerPhase (m : FpFormat) : Chan → Fp
  | .p0 => fpZero
  | .p1 => fpZero
  | .tri => fpQuarter m
  | .noise => fpZero

/-- `lastRandom` as an integer (R35). -/
def lastRandomInt : LastRandom → Int
  | .minusOne => -1
  | .zero => 0
  | .plusOne => 1

/-- `raise Refused(reason)`: no state is written and no frame is emitted (R16, R161). -/
def refuse (r : Refusal) : Answer := .refused r

/-- The reason codes of R161; none for the model's own reason. -/
def refusalCode : Refusal → Option Nat
  | .notInitialised _ _ _ _ _ => some 1
  | .timeOverflow _ => some 2
  | .markerOverflow _ _ _ _ _ _ => some 3
  | .badSampleRate _ _ => some 4
  | .badMaxVolume _ _ _ => some 5
  | .reservedOperation _ _ _ _ _ => some 6
  | _ => none

/-- `sat16` (R14). -/
def sat16 (v : Int) : Int := max (-32768) (min 32767 v)

/-- The largest value of a 64-bit time: 2^64 - 1 (R163, R164). -/
def timeMax : Nat := 2 ^ 64 - 1

end Sys2Proof.Machine
end

