-- ==== Sys2Proof/Machine/Operands.lean ====
section
/-!
DEFINITION. The operand fields of the words W0 to W3 (R62 to R68): every field is a slice `W[hi:lo]`,
zero-extended where it is used as an integer.
-/

namespace Sys2Proof.Machine

/-- `freq1 = W0[15:0]` (R62). -/
def freq1Field (w0 : Word) : BitVec 16 := w0.extractLsb' 0 16

/-- `freq2 = W0[31:16]` (R62). -/
def freq2Field (w0 : Word) : BitVec 16 := w0.extractLsb' 16 16

/-- `sustainTicks = W1[7:0]` (R63). -/
def sustainTicks (w1 : Word) : BitVec 8 := w1.extractLsb' 0 8

/-- `releaseTicks = W1[15:8]` (R63). -/
def releaseTicks (w1 : Word) : BitVec 8 := w1.extractLsb' 8 8

/-- `decayTicks = W1[23:16]` (R63). -/
def decayTicks (w1 : Word) : BitVec 8 := w1.extractLsb' 16 8

/-- `attackTicks = W1[31:24]` (R63). -/
def attackTicks (w1 : Word) : BitVec 8 := w1.extractLsb' 24 8

/-- `sustainByte = W2[7:0]` (R64). -/
def sustainByte (w2 : Word) : BitVec 8 := w2.extractLsb' 0 8

/-- `peakByte = W2[15:8]` (R64). -/
def peakByte (w2 : Word) : BitVec 8 := w2.extractLsb' 8 8

/-- `mode = W3[3:2]` (R65, C4). -/
def modeField (w3 : Word) : BitVec 2 := w3.extractLsb' 2 2

/-- `pan = W3[5:4]` (R65). -/
def panField (w3 : Word) : BitVec 2 := w3.extractLsb' 4 2

/-- `sampleRate = W0[31:0]` (R66). -/
def sampleRateField (w0 : Word) : BitVec 32 := w0.extractLsb' 0 32

/-- `maxVolume = W1[15:0]` (R66). -/
def maxVolumeField (w1 : Word) : BitVec 16 := w1.extractLsb' 0 16

/-- `maxVolumeTriangle = W2[15:0]` (R66). -/
def maxVolumeTriField (w2 : Word) : BitVec 16 := w2.extractLsb' 0 16

/-- A volume byte clamped to 100 (R95). -/
def clampVolume (b : BitVec 8) : Nat := min b.toNat 100

end Sys2Proof.Machine
end

