-- ==== Sys2Proof/Machine/Control.lean ====
section
/-!
DEFINITION. The control operations: INIT, which is the block's reset (R150, R181), and RESERVED (R151).
-/

namespace Sys2Proof.Machine

/-- The lowest sample rate INIT accepts (R6, D17). -/
def minSampleRate : Nat := 1000

/-- The highest sample rate INIT accepts (R6, D17). -/
def maxSampleRate : Nat := 16777215

/-- The highest maximum volume INIT accepts (R7, D18). -/
def maxVolumeLimit : Nat := 32767

/-- The sample rate INIT is given is outside 1000..16777215 (R165). -/
def badSampleRate (w0 : Word) : Bool :=
  decide ((sampleRateField w0).toNat < minSampleRate ∨ maxSampleRate < (sampleRateField w0).toNat)

/-- A maximum volume INIT is given exceeds 32767 (R165). -/
def badMaxVolume (w1 w2 : Word) : Bool :=
  decide (maxVolumeLimit < (maxVolumeField w1).toNat ∨ maxVolumeLimit < (maxVolumeTriField w2).toNat)

/-- What an accepted INIT writes: every field of the architectural state (R150, R181). The parameters
and the two streams stay. -/
def initWrite (w0 w1 w2 : Word) (s : State) : State :=
  { config := s.config
    ops := s.ops
    frames := s.frames
    cfgSR := sampleRateField w0
    cfgMAXV := maxVolumeField w1
    cfgMAXVTRI := maxVolumeTriField w2
    time := 0#64
    inited := true
    ch0 := Channel.cleared
    ch1 := Channel.cleared
    ch2 := Channel.cleared
    ch3 := Channel.cleared
    duty0 := fpQuarter s.config.fpFormat
    duty1 := fpQuarter s.config.fpFormat
    seed := s.config.noiseSeedInit
    lastRandom := s.config.lastRandomInit }

/-- INIT: the sample rate is checked before the volumes and both before any write (R150, R167); W3 is
ignored (R66). -/
def execInit (w0 w1 w2 _w3 : Word) (s : State) : Answer :=
  if badSampleRate w0 then refuse (.badSampleRate 2#2 w0)
  else if badMaxVolume w1 w2 then refuse (.badMaxVolume 2#2 w1 w2)
  else .next (initWrite w0 w1 w2 s)

/-- RESERVED: refused whatever the state and the words (R151, R166). -/
def execReserved (w0 w1 w2 w3 : Word) (_s : State) : Answer :=
  refuse (.reservedOperation 3#2 w0 w1 w2 w3)

end Sys2Proof.Machine
end

