-- ==== Sys2Proof/Machine/Ramp.lean ====
section
/-!
DEFINITION. The linear ramp interpolator (linear_ramp_interp, R80 to R82).
-/

namespace Sys2Proof.Machine

/-- LERP: `fadd(fp(a), fmul(tau, fp(b - a)))` (R80). -/
def lerpF (m : FpFormat) (a b : Int) (tau : Fp) : Fp := fadd m (fp m a) (fmul m tau (fp m (b - a)))

/-- The fraction of a ramp: `fdiv(fp(time - t1), fp(t2 - t1))`, the differences exact (R81). -/
def rampTau (m : FpFormat) (time t1 t2 : Nat) : Fp :=
  fdiv m (fp m ((time : Int) - (t1 : Int))) (fp m ((t2 : Int) - (t1 : Int)))

/-- RAMP: the interpolated integer, truncated toward zero (R81); `b` on a zero-width interval (R82).
R81 states it for `t1 <= time <= t2`; outside that the same formula is used on exact integer
differences (assumption 9), which no legal state reaches (R113). -/
def ramp (m : FpFormat) (a b : Int) (time t1 t2 : Nat) : Int :=
  if t1 = t2 then b else trunc m (lerpF m a b (rampTau m time t1 t2))

end Sys2Proof.Machine
end

