-- ==== Sys2Proof/Machine/Envelope.lean ====
section
/-!
DEFINITION. The frequency and envelope evaluators (adsr_envelope_gen, R110 and R111). They read a
channel and write nothing.
-/

namespace Sys2Proof.Machine

/-- FREQ_AT: the sweep from freq1 to freq2 over the life of the voice, or the constant freq1 when
freq2 is 0 (R110). -/
def freqAt (m : FpFormat) (c : Channel) (t : BitVec 64) : Int :=
  if 0 < c.freq2.toNat then
    ramp m c.freq1.toNat c.freq2.toNat t.toNat c.startTime.toNat c.releaseTime.toNat
  else (c.freq1.toNat : Int)

/-- VOL_AT: the ADSR ladder in the order R112 makes normative, the release test first (R111). -/
def volAt (m : FpFormat) (c : Channel) (t : BitVec 64) : Int :=
  if c.sustainTime.toNat ≤ t.toNat then
    ramp m c.sustainVolume.toNat 0 t.toNat c.sustainTime.toNat c.releaseTime.toNat
  else if c.decayTime.toNat ≤ t.toNat then (c.sustainVolume.toNat : Int)
  else if c.attackTime.toNat ≤ t.toNat then
    ramp m c.peakVolume.toNat c.sustainVolume.toNat t.toNat c.attackTime.toNat c.decayTime.toNat
  else ramp m 0 c.peakVolume.toNat t.toNat c.startTime.toNat c.attackTime.toNat

end Sys2Proof.Machine
end

