-- ==== Sys2Proof/Machine/Flags.lean ====
section
/-!
DEFINITION. The block has no flags, condition codes or predicate registers (R33). This file holds the
two predicates that are computed from state and never stored.
-/

namespace Sys2Proof.Machine

/-- `active(i)`: the sample time is before the channel's release marker (R33, R140). -/
def active (t : BitVec 64) (c : Channel) : Bool := decide (t.toNat < c.releaseTime.toNat)

/-- `idle(i)`: the sample time is past the channel's release marker (R33, R91). At equality a channel
is neither active nor idle (90_conflicts.md C1). -/
def idle (t : BitVec 64) (c : Channel) : Bool := decide (c.releaseTime.toNat < t.toNat)

end Sys2Proof.Machine
end

