-- ==== Sys2Proof/Machine/Oscillators.lean ====
section
/-!
DEFINITION. The waveform generators: ADVANCE (R120), PULSE and POLYBLEP (R121 to R124), TRIANGLE
(R125), NOISE and LFSR_STEP (R130 to R132). A loop that would never end has no result.
-/

namespace Sys2Proof.Machine

/-- A bound on the passes of a phase loop: the whole part of the value that enters it, plus one. Each
pass that lowers the value lowers it by at least 1 until the loop's test fails, so a loop still going
after this many passes never ends (assumption 8). -/
def loopFuel (m : FpFormat) : Fp → Nat
  | .fin false mag => mag / oneMag m + 1
  | .fin true _ => 0
  | .inf _ => 0
  | .nan => 0

/-- The loop `while phase >= 1: phase <- fsub(phase, 1)` (R120, D12). -/
def wrapLoop (m : FpFormat) : Nat → Fp → Option Fp
  | 0, ph => if fle (fpOne m) ph then none else some ph
  | n + 1, ph => if fle (fpOne m) ph then wrapLoop m n (fsub m ph (fpOne m)) else some ph

/-- The phase increment of a tonal channel: `fdiv(fp(f), fp(SR))` (R120). -/
def phaseInc (m : FpFormat) (sr : BitVec 32) (f : Int) : Fp := fdiv m (fp m f) (fp m sr.toNat)

/-- The phase ADVANCE leaves (R120): the increment added, then wrapped into [0, 1). -/
def advance (m : FpFormat) (sr : BitVec 32) (f : Int) (phase : Fp) : Option Fp :=
  wrapLoop m (loopFuel m (fadd m phase (phaseInc m sr f))) (fadd m phase (phaseInc m sr f))

/-- The parabola `2t - t^2` (R123). -/
def parabola (m : FpFormat) (t : Fp) : Fp := fsub m (fadd m t t) (fmul m t t)

/-- POLYBLEP, the near-start branch first, the far edge `1 - (2t - t^2)` (R123, D13). -/
def polyblep (m : FpFormat) (p dp : Fp) : Fp :=
  if flt p dp then parabola m (fdiv m p dp)
  else if flt (fsub m (fpOne m) dp) p then
    fsub m (fpOne m) (parabola m (fdiv m (fsub m p (fsub m (fpOne m) dp)) dp))
  else fpOne m

/-- The sample of a pulse channel at phase `ph` with increment `inc`, duty cycle `d` and volume `v`:
the high segment is `ph < d` (R121, R122, R124). -/
def pulseSample (m : FpFormat) (d ph inc : Fp) (v : Int) : Int :=
  if flt ph d then
    trunc m (fmul m (fp m v) (polyblep m (fdiv m ph d) (fdiv m inc d)))
  else
    trunc m (fmul m (fp m (-v))
      (polyblep m (fdiv m (fsub m ph d) (fsub m (fpOne m) d)) (fdiv m inc (fsub m (fpOne m) d))))

/-- PULSE: the new phase and the sample (R121). -/
def pulse (m : FpFormat) (sr : BitVec 32) (d : Fp) (f v : Int) (phase : Fp) : Option (Fp × Int) :=
  match advance m sr f phase with
  | none => none
  | some ph => some (ph, pulseSample m d ph (phaseInc m sr f) v)

/-- The sample of the triangle at phase `ph`: `v * (2 * |2 * ph - 1| - 1)`, truncated (R125). -/
def triangleSample (m : FpFormat) (ph : Fp) (v : Int) : Int :=
  trunc m (fmul m (fp m v)
    (fsub m (fmul m (fpTwo m) (fabs (fsub m (fmul m (fpTwo m) ph) (fpOne m)))) (fpOne m)))

/-- TRIANGLE: the new phase and the sample (R125). -/
def triangle (m : FpFormat) (sr : BitVec 32) (f v : Int) (phase : Fp) : Option (Fp × Int) :=
  match advance m sr f phase with
  | none => none
  | some ph => some (ph, triangleSample m ph v)

/-- The 16-bit xorshift of LFSR_STEP, shifts 7, 9 and 13, the left shift kept to 16 bits (R131). -/
def lfsrNext (s : BitVec 16) : BitVec 16 :=
  let s1 := s ^^^ (s >>> 7)
  let s2 := s1 ^^^ (s1 <<< 9)
  s2 ^^^ (s2 >>> 13)

/-- The value LFSR_STEP gives `lastRandom`, from the low bit of the new seed (R131). -/
def lfsrSign (s : BitVec 16) : LastRandom := if s.getLsbD 0 then .plusOne else .minusOne

/-- One pass of the noise loop: 1 subtracted from the accumulator and one LFSR step (R130, R131). -/
def noiseStep (m : FpFormat) (g : NoiseGen) : NoiseGen :=
  { phase := fsub m g.phase (fpOne m)
    seed := lfsrNext g.seed
    lastRandom := lfsrSign (lfsrNext g.seed) }

/-- The loop `while phase > 0` (R130). -/
def noiseLoop (m : FpFormat) : Nat → NoiseGen → Option NoiseGen
  | 0, g => if flt fpZero g.phase then none else some g
  | n + 1, g => if flt fpZero g.phase then noiseLoop m n (noiseStep m g) else some g

/-- `K = fdiv(fp(1000000), fp(44100))` (R12, R130). -/
def noiseK (m : FpFormat) : Fp := fdiv m (fp m 1000000) (fp m 44100)

/-- The accumulator's increment: `fdiv(fp(f * f), fmul(K, fp(SR)))`, `f * f` exact (R130, D14). -/
def noiseInc (m : FpFormat) (sr : BitVec 32) (f : Int) : Fp :=
  fdiv m (fp m (f * f)) (fmul m (noiseK m) (fp m sr.toNat))

/-- The generator after the accumulation of one sample (R130). -/
def noiseAdvance (m : FpFormat) (sr : BitVec 32) (f : Int) (g : NoiseGen) : Option NoiseGen :=
  noiseLoop m (loopFuel m (fadd m g.phase (noiseInc m sr f)))
    { g with phase := fadd m g.phase (noiseInc m sr f) }

/-- NOISE: the new generator and the sample `v * lastRandom` (R130, R132). -/
def noise (m : FpFormat) (sr : BitVec 32) (f v : Int) (g : NoiseGen) : Option (NoiseGen × Int) :=
  match noiseAdvance m sr f g with
  | none => none
  | some g' => some (g', v * lastRandomInt g'.lastRandom)

end Sys2Proof.Machine
end

