-- ==== Sys2Proof/Machine/Mixer.lean ====
section
/-!
DEFINITION. The stereo mixer and the sample step: TICK (R140 to R144) and WRITE_SAMPLES (R145).
-/

namespace Sys2Proof.Machine

/-- One saturating addition into a signed 16-bit accumulator: `acc <- sat16(acc + s)` (R142). -/
def satAdd (acc : BitVec 16) (sample : Int) : BitVec 16 := BitVec.ofInt 16 (sat16 (acc.toInt + sample))

/-- A sample added to the accumulators its pan selects: the right unless pan is 1, the left unless pan
is 2 (R141). -/
def mixInto (pan : BitVec 2) (sample : Int) (acc : Frame) : Frame :=
  { left := if pan = 2#2 then acc.left else satAdd acc.left sample
    right := if pan = 1#2 then acc.right else satAdd acc.right sample }

/-- The sample of channel `i` at sample time `t` and the state its generator leaves (R144): the
frequency, the volume, then the generator of the channel's role. None when a phase loop never ends. -/
def voice (i : Chan) (t : BitVec 64) (s : State) : Option (State × Int) :=
  let m := s.config.fpFormat
  let f := freqAt m (chan s i) t
  let v := volAt m (chan s i) t
  match i with
  | .p0 => (pulse m s.cfgSR s.duty0 f v s.ch0.phase).map fun r => (setPhase .p0 r.1 s, r.2)
  | .p1 => (pulse m s.cfgSR s.duty1 f v s.ch1.phase).map fun r => (setPhase .p1 r.1 s, r.2)
  | .tri => (triangle m s.cfgSR f v s.ch2.phase).map fun r => (setPhase .tri r.1 s, r.2)
  | .noise => (noise m s.cfgSR f v (noiseGen s)).map fun r => (setNoiseGen r.1 s, r.2)

/-- One pass of the channel loop: an inactive channel is not evaluated at all (R140), an active one is
evaluated and its sample mixed (R141, R142). -/
def mixVoice (i : Chan) (t : BitVec 64) (s : State) (acc : Frame) : Option (State × Frame) :=
  if active t (chan s i) then
    (voice i t s).map fun r => (r.1, mixInto (chan s i).pan r.2 acc)
  else some (s, acc)

/-- The channel loop over a list of channels. -/
def mixVoices (t : BitVec 64) : List Chan → State → Frame → Option (State × Frame)
  | [], s, acc => some (s, acc)
  | i :: rest, s, acc =>
    match mixVoice i t s acc with
    | none => none
    | some (s', acc') => mixVoices t rest s' acc'

/-- The order of the channels: 0, 1, 2, 3 (R142). -/
def channelOrder : List Chan := [.p0, .p1, .tri, .noise]

/-- Both accumulators at 0, as every TICK starts (R142). -/
def silence : Frame := { left := 0#16, right := 0#16 }

/-- What a TICK that is not refused does (R144): the channel loop at the current sample time, then the
frame emitted and the time advanced by 1. -/
def tickRun (s : State) : Answer :=
  match mixVoices s.time channelOrder s silence with
  | none => .fault .loopNeverEnds
  | some (s', f) => .next (setTime (s.time + 1#64) (emit f s'))

/-- TICK (R144), its two refusals first (R162, R163, R167). -/
def execTick (w0 w1 w2 w3 : Word) (s : State) : Answer :=
  if s.inited = false then refuse (.notInitialised 0#2 w0 w1 w2 w3)
  else if s.time.toNat = timeMax then refuse (.timeOverflow 0#2)
  else tickRun s

/-- WRITE_SAMPLES n (R145): n consecutive TICKs, stopping at the first that is refused. It answers the
last state reached, whose frames are those emitted before a refusal, and how it ended. -/
def writeSamples : Nat → State → State × Answer
  | 0, s => (s, .next s)
  | n + 1, s =>
    match execTick 0#32 0#32 0#32 0#32 s with
    | .next s' => writeSamples n s'
    | .fault r => (s, .fault r)
    | .refused r => (s, .refused r)

end Sys2Proof.Machine
end

