-- ==== Sys2Proof/Machine/Tone.lean ====
section
/-!
DEFINITION. The tone command: TONE.P0, TONE.P1, TONE.TRI and TONE.NOISE (R90 to R99), each one line
over the shared operation `tone`.
-/

namespace Sys2Proof.Machine

/-- The number of samples in a number of envelope ticks: `(SR * ticks) // 60` (R93). -/
def ticksToSamples (sr : BitVec 32) (ticks : BitVec 8) : Nat := sr.toNat * ticks.toNat / 60

/-- `attackTime` as an integer: the start plus the attack length (R93). -/
def attackMarker (sr : BitVec 32) (t : BitVec 64) (w1 : Word) : Nat :=
  t.toNat + ticksToSamples sr (attackTicks w1)

/-- `decayTime` as an integer (R93). -/
def decayMarker (sr : BitVec 32) (t : BitVec 64) (w1 : Word) : Nat :=
  attackMarker sr t w1 + ticksToSamples sr (decayTicks w1)

/-- `sustainTime` as an integer (R93). -/
def sustainMarker (sr : BitVec 32) (t : BitVec 64) (w1 : Word) : Nat :=
  decayMarker sr t w1 + ticksToSamples sr (sustainTicks w1)

/-- The triangle's anti-pop extension: `SR // 1000` samples when its release byte is 0 (R98). -/
def antiPop (i : Chan) (sr : BitVec 32) (w1 : Word) : Nat :=
  if i = .tri ∧ releaseTicks w1 = 0#8 then sr.toNat / 1000 else 0

/-- `releaseTime` as an integer, the anti-pop extension included (R93, R98). -/
def releaseMarker (i : Chan) (sr : BitVec 32) (t : BitVec 64) (w1 : Word) : Nat :=
  sustainMarker sr t w1 + ticksToSamples sr (releaseTicks w1) + antiPop i sr w1

/-- The sustain volume: `(mx * min(sustainByte, 100)) // 100` (R95). -/
def sustainLevel (mx : BitVec 16) (w2 : Word) : Nat := mx.toNat * clampVolume (sustainByte w2) / 100

/-- The peak volume: `mx` for a peak byte of 0, else scaled as the sustain volume (R95). -/
def peakLevel (mx : BitVec 16) (w2 : Word) : Nat :=
  if clampVolume (peakByte w2) = 0 then mx.toNat
  else mx.toNat * clampVolume (peakByte w2) / 100

/-- The duty cycle of a mode: 0 gives 0.125, 2 gives 0.5, 1 and 3 give 0.25 (R97). -/
def duty (m : FpFormat) (mode : BitVec 2) : Fp :=
  if mode = 0#2 then fpEighth m else if mode = 2#2 then fpHalf m else fpQuarter m

/-- The phase a TONE leaves: reset on an idle channel, kept on any other (R91). -/
def tonePhase (m : FpFormat) (i : Chan) (t : BitVec 64) (c : Channel) : Fp :=
  if idle t c then retriggerPhase m i else c.phase

/-- The record a TONE writes (R91 to R96, R98). -/
def toneChannel (i : Chan) (w0 w1 w2 w3 : Word) (s : State) : Channel :=
  { freq1 := freq1Field w0
    freq2 := freq2Field w0
    startTime := s.time
    attackTime := BitVec.ofNat 64 (attackMarker s.cfgSR s.time w1)
    decayTime := BitVec.ofNat 64 (decayMarker s.cfgSR s.time w1)
    sustainTime := BitVec.ofNat 64 (sustainMarker s.cfgSR s.time w1)
    releaseTime := BitVec.ofNat 64 (releaseMarker i s.cfgSR s.time w1)
    peakVolume := BitVec.ofNat 16 (peakLevel (maxVolumeOf s i) w2)
    sustainVolume := BitVec.ofNat 16 (sustainLevel (maxVolumeOf s i) w2)
    phase := tonePhase s.config.fpFormat i s.time (chan s i)
    pan := panField w3 }

/-- What an accepted TONE writes: the record of its channel and, on a pulse channel, its duty cycle
(R90, R97, R99). -/
def toneWrite (i : Chan) (w0 w1 w2 w3 : Word) (s : State) : State :=
  setDuty i (duty s.config.fpFormat (modeField w3)) (setChan i (toneChannel i w0 w1 w2 w3 s) s)

/-- TONE on channel `i`: the two refusals before any write (R90, R162, R164, R167). -/
def tone (i : Chan) (w0 w1 w2 w3 : Word) (s : State) : Answer :=
  if s.inited = false then refuse (.notInitialised 1#2 w0 w1 w2 w3)
  else if timeMax < releaseMarker i s.cfgSR s.time w1 then
    refuse (.markerOverflow 1#2 w0 w1 w2 w3 s.time)
  else .next (toneWrite i w0 w1 w2 w3 s)

/-- TONE.P0 (R90). -/
def execToneP0 (w0 w1 w2 w3 : Word) (s : State) : Answer := tone .p0 w0 w1 w2 w3 s

/-- TONE.P1 (R90). -/
def execToneP1 (w0 w1 w2 w3 : Word) (s : State) : Answer := tone .p1 w0 w1 w2 w3 s

/-- TONE.TRI (R90, R98). -/
def execToneTri (w0 w1 w2 w3 : Word) (s : State) : Answer := tone .tri w0 w1 w2 w3 s

/-- TONE.NOISE (R90). -/
def execToneNoise (w0 w1 w2 w3 : Word) (s : State) : Answer := tone .noise w0 w1 w2 w3 s

end Sys2Proof.Machine
end

