-- ==== Sys2Proof/Machine/Dispatch.lean ====
section
/-! DEFINITION. The meaning of every operation, one arm per row of the opcode map (R73). -/

namespace Sys2Proof.Machine

def exec (i : Instr) (s : State) : Host.Outcome State Fault Refusal :=
  match i with
  | .tick w0 w1 w2 w3 => Sys2Proof.Machine.execTick w0 w1 w2 w3 s
  | .toneP0 w0 w1 w2 w3 => Sys2Proof.Machine.execToneP0 w0 w1 w2 w3 s
  | .toneP1 w0 w1 w2 w3 => Sys2Proof.Machine.execToneP1 w0 w1 w2 w3 s
  | .toneTri w0 w1 w2 w3 => Sys2Proof.Machine.execToneTri w0 w1 w2 w3 s
  | .toneNoise w0 w1 w2 w3 => Sys2Proof.Machine.execToneNoise w0 w1 w2 w3 s
  | .init w0 w1 w2 w3 => Sys2Proof.Machine.execInit w0 w1 w2 w3 s
  | .reserved w0 w1 w2 w3 => Sys2Proof.Machine.execReserved w0 w1 w2 w3 s

end Sys2Proof.Machine
end

