-- ==== Sys2Proof/Machine/Step.lean ====
section
/-!
DEFINITION. One step of the machine: the oldest operation of the host's stream is taken, decoded and
executed (R55). With no operation pending the block holds its state unchanged (R173).
-/

namespace Sys2Proof.Machine

/-- One step (R55, R173). -/
def step (s : State) : Host.Outcome State Fault Refusal :=
  match takeOperation s with
  | none => .next s
  | some (w, s') => exec (decode w) s'

/-- The state with an operation of the host's opcode table placed where the next step takes its
operation: the head of the stream (assumption 2). A number that is no operation changes nothing. -/
def State.withFetchWord (s : State) (nbits w : Nat) : State :=
  match tableOperation nbits w with
  | none => s
  | some op => pushOperation op s

end Sys2Proof.Machine
end

