-- ==== Sys2Proof/Machine/Assembler.lean ====
section
/-!
DEFINITION. The textual syntax, the operand macros and the pseudo-operation WRITE_SAMPLES of R72. The
text is a list of characters. Details R72 does not state are in assumption 16.
-/

namespace Sys2Proof.Machine

/-- Why a line is no line of R72. -/
inductive AsmError where
  /-- A character sequence that is no mnemonic, macro, integer or punctuation of R72. -/
  | badLine
  /-- An operand word of 2^32 or more: an operand word has 32 bits (R60). -/
  | wordTooWide
  deriving DecidableEq, Repr

/-- One line of the syntax of R72, its operands already evaluated. -/
inductive AsmLine where
  /-- `TICK`. -/
  | tick
  /-- `TONE w0, w1, w2, w3`. -/
  | tone (w0 w1 w2 w3 : Nat)
  /-- `INIT sr, maxv, maxvtri`. -/
  | init (sr maxv maxvtri : Nat)
  /-- `WRITE_SAMPLES n`: n consecutive TICK lines. -/
  | writeSamples (n : Nat)
  deriving DecidableEq, Repr

/-- `FREQ(f1, f2) = f1[15:0] | f2[15:0] << 16` (R72). -/
def asmFreq (f1 f2 : Nat) : Nat := f1 % 2 ^ 16 + f2 % 2 ^ 16 * 2 ^ 16

/-- `DUR(a, d, s, r) = s[7:0] | r[7:0] << 8 | d[7:0] << 16 | a[7:0] << 24` (R72). -/
def asmDur (a d s r : Nat) : Nat :=
  s % 2 ^ 8 + r % 2 ^ 8 * 2 ^ 8 + d % 2 ^ 8 * 2 ^ 16 + a % 2 ^ 8 * 2 ^ 24

/-- `VOL(peak, sus) = sus[7:0] | peak[7:0] << 8` (R72). -/
def asmVol (peak sus : Nat) : Nat := sus % 2 ^ 8 + peak % 2 ^ 8 * 2 ^ 8

/-- `FLAGS(ch, mode, pan) = ch[1:0] | mode[1:0] << 2 | pan[1:0] << 4` (R72). -/
def asmFlags (ch mode pan : Nat) : Nat := ch % 2 ^ 2 + mode % 2 ^ 2 * 2 ^ 2 + pan % 2 ^ 2 * 2 ^ 4

/-- An integer as an operand word. -/
def asmWord (n : Nat) : Except AsmError Word :=
  if n < 2 ^ 32 then .ok (BitVec.ofNat 32 n) else .error .wordTooWide

/-- The operation of a `TICK` line: OP = 0 and W0 to W3 zero (R72). -/
def asmTick : OpBits := assemble 0#2 0#32 0#32 0#32 0#32

/-- The operations a line stands for (R72). -/
def asmExpand : AsmLine → Except AsmError (List OpBits)
  | .tick => .ok [asmTick]
  | .tone w0 w1 w2 w3 => do
    let a ← asmWord w0
    let b ← asmWord w1
    let c ← asmWord w2
    let d ← asmWord w3
    return [assemble 1#2 a b c d]
  | .init sr maxv maxvtri => do
    let a ← asmWord sr
    let b ← asmWord maxv
    let c ← asmWord maxvtri
    return [assemble 2#2 a b c 0#32]
  | .writeSamples n => .ok (List.replicate n asmTick)

/-- The pieces of a line. -/
inductive AsmToken where
  | word (cs : List Char)
  | comma
  | lpar
  | rpar
  deriving DecidableEq, Repr

/-- A pending word put before the tokens that follow it; the word is kept in reverse. -/
def asmFlush (acc : List Char) (rest : List AsmToken) : List AsmToken :=
  if acc = [] then rest else .word acc.reverse :: rest

/-- The tokens of a line; a semicolon starts a comment (R72). -/
def asmTokens : List Char → List Char → List AsmToken
  | [], acc => asmFlush acc []
  | c :: cs, acc =>
    if c = ';' then asmFlush acc []
    else if c = ',' then asmFlush acc (.comma :: asmTokens cs [])
    else if c = '(' then asmFlush acc (.lpar :: asmTokens cs [])
    else if c = ')' then asmFlush acc (.rpar :: asmTokens cs [])
    else if c = ' ' ∨ c = '\t' ∨ c = '\r' then asmFlush acc (asmTokens cs [])
    else asmTokens cs (c :: acc)

/-- The value of a decimal digit. -/
def decDigit (c : Char) : Option Nat :=
  if 48 ≤ c.toNat ∧ c.toNat ≤ 57 then some (c.toNat - 48) else none

/-- The value of a hexadecimal digit. -/
def hexDigit (c : Char) : Option Nat :=
  if 48 ≤ c.toNat ∧ c.toNat ≤ 57 then some (c.toNat - 48)
  else if 65 ≤ c.toNat ∧ c.toNat ≤ 70 then some (c.toNat - 55)
  else if 97 ≤ c.toNat ∧ c.toNat ≤ 102 then some (c.toNat - 87)
  else none

/-- Digits read in a base, most significant first. -/
def asmDigits (base : Nat) (digit : Char → Option Nat) : List Char → Nat → Option Nat
  | [], n => some n
  | c :: cs, n =>
    match digit c with
    | none => none
    | some d => asmDigits base digit cs (n * base + d)

/-- An integer, decimal or `0x` hexadecimal (R72). -/
def asmInteger : List Char → Option Nat
  | [] => none
  | '0' :: 'x' :: c :: cs => asmDigits 16 hexDigit (c :: cs) 0
  | c :: cs => asmDigits 10 decDigit (c :: cs) 0

/-- The integers of a comma-separated list up to a closing parenthesis, and the tokens after it. -/
def asmArgs : List AsmToken → Option (List Nat × List AsmToken)
  | .word w :: .rpar :: rest => (asmInteger w).map fun n => ([n], rest)
  | .word w :: .comma :: rest =>
    match asmInteger w, asmArgs rest with
    | some n, some (ns, rest') => some (n :: ns, rest')
    | _, _ => none
  | _ => none

/-- An operand macro applied to its arguments (R72). -/
def asmMacro (name : List Char) (args : List Nat) : Option Nat :=
  if name = ['F', 'R', 'E', 'Q'] then
    match args with
    | [f1, f2] => some (asmFreq f1 f2)
    | _ => none
  else if name = ['D', 'U', 'R'] then
    match args with
    | [a, d, s, r] => some (asmDur a d s r)
    | _ => none
  else if name = ['V', 'O', 'L'] then
    match args with
    | [peak, sus] => some (asmVol peak sus)
    | _ => none
  else if name = ['F', 'L', 'A', 'G', 'S'] then
    match args with
    | [ch, mode, pan] => some (asmFlags ch mode pan)
    | _ => none
  else none

/-- One operand, an integer or a macro, and the tokens after it. -/
def asmOperand : List AsmToken → Option (Nat × List AsmToken)
  | .word name :: .lpar :: rest =>
    match asmArgs rest with
    | none => none
    | some (args, rest') => (asmMacro name args).map fun n => (n, rest')
  | .word w :: rest => (asmInteger w).map fun n => (n, rest)
  | _ => none

/-- Exactly `k + 1` operands separated by commas, with nothing after them. -/
def asmOperands : Nat → List AsmToken → Option (List Nat)
  | 0, ts =>
    match asmOperand ts with
    | some (n, []) => some [n]
    | _ => none
  | k + 1, ts =>
    match asmOperand ts with
    | some (n, .comma :: rest) => (asmOperands k rest).map (n :: ·)
    | _ => none

/-- The line a token list stands for; a list without tokens is an empty line. -/
def asmLine : List AsmToken → Except AsmError (Option AsmLine)
  | [] => .ok none
  | .word w :: ts =>
    if w = ['T', 'I', 'C', 'K'] then
      if ts = [] then .ok (some .tick) else .error .badLine
    else if w = ['T', 'O', 'N', 'E'] then
      match asmOperands 3 ts with
      | some [w0, w1, w2, w3] => .ok (some (.tone w0 w1 w2 w3))
      | _ => .error .badLine
    else if w = ['I', 'N', 'I', 'T'] then
      match asmOperands 2 ts with
      | some [sr, maxv, maxvtri] => .ok (some (.init sr maxv maxvtri))
      | _ => .error .badLine
    else if w = ['W', 'R', 'I', 'T', 'E', '_', 'S', 'A', 'M', 'P', 'L', 'E', 'S'] then
      match asmOperands 0 ts with
      | some [n] => .ok (some (.writeSamples n))
      | _ => .error .badLine
    else .error .badLine
  | _ => .error .badLine

/-- The lines of a text: one operation per line (R72). -/
def asmSplit : List Char → List Char → List (List Char)
  | [], acc => [acc.reverse]
  | c :: cs, acc => if c = '\n' then acc.reverse :: asmSplit cs [] else asmSplit cs (c :: acc)

/-- The operations of one line of text. -/
def asmTextLine (line : List Char) : Except AsmError (List OpBits) := do
  match ← asmLine (asmTokens line []) with
  | none => return []
  | some l => asmExpand l

/-- The operations of a list of lines, in order. -/
def asmLines : List (List Char) → Except AsmError (List OpBits)
  | [] => .ok []
  | l :: ls => do
    let a ← asmTextLine l
    let b ← asmLines ls
    return a ++ b

/-- The operations a text stands for (R72). -/
def assembleText (text : List Char) : Except AsmError (List OpBits) := asmLines (asmSplit text [])

end Sys2Proof.Machine
end

