-- ==== Sys2Proof/Machine/Output.lean ====
section
/-!
DEFINITION. The output stream as 16-bit samples and as bytes (R11, R52, R145). The state keeps frames;
OUT_ENDIAN matters only where a host serialises them.
-/

namespace Sys2Proof.Machine

/-- The two samples of a frame, left first (R52, R144). -/
def frameSamples (f : Frame) : List (BitVec 16) := [f.left, f.right]

/-- The output stream as samples: L0, R0, L1, R1, ... (R145). -/
def outputSamples (s : State) : List (BitVec 16) := s.frames.flatMap frameSamples

/-- A sample's two bytes in the order OUT_ENDIAN gives (R11, R52). -/
def sampleBytes (e : Endian) (x : BitVec 16) : List (BitVec 8) :=
  match e with
  | .little => [x.extractLsb' 0 8, x.extractLsb' 8 8]
  | .big => [x.extractLsb' 8 8, x.extractLsb' 0 8]

/-- The output stream serialised to bytes (R11, R52). -/
def outputBytes (s : State) : List (BitVec 8) :=
  (outputSamples s).flatMap (sampleBytes s.config.outEndian)

end Sys2Proof.Machine
end

