-- ==== Sys2Proof/Safety.lean ====
section
/-!
DEFINITION. What a legal state is: the ranges and relations 10_state.md gives the state after INIT
(R21 to R35). A safe run is one whose states are legal; `step` never faults from a legal state.
-/

namespace Sys2Proof.Machine

/-- The marker invariant of R28: the five markers do not decrease, and the voice has started. -/
abbrev MarkersOk (t : BitVec 64) (c : Channel) : Prop :=
  c.startTime.toNat ≤ c.attackTime.toNat ∧ c.attackTime.toNat ≤ c.decayTime.toNat ∧
  c.decayTime.toNat ≤ c.sustainTime.toNat ∧ c.sustainTime.toNat ≤ c.releaseTime.toNat ∧
  c.startTime.toNat ≤ t.toNat

/-- Both volumes of a channel are at most its maximum volume (R29). -/
abbrev VolumesOk (mx : BitVec 16) (c : Channel) : Prop :=
  c.peakVolume.toNat ≤ mx.toNat ∧ c.sustainVolume.toNat ≤ mx.toNat

/-- The phase of a tonal channel: a value of the format in [0, 1) (R30). -/
def tonalPhaseOk (m : FpFormat) : Fp → Bool
  | .fin neg mag => !neg && decide (mag < oneMag m) && representable m (.fin neg mag)
  | .inf _ => false
  | .nan => false

/-- The accumulator of the noise channel: a value of the format in [-1, 0]. R30 says (-1, 0]; the
arithmetic of R130 can leave exactly -1 (assumption 12). -/
def noisePhaseOk (m : FpFormat) : Fp → Bool
  | .fin neg mag =>
    (if neg then decide (0 < mag ∧ mag ≤ oneMag m) else decide (mag = 0)) &&
      representable m (.fin neg mag)
  | .inf _ => false
  | .nan => false

/-- A duty cycle is one of the three values R32 lists. -/
abbrev DutyOk (m : FpFormat) (d : Fp) : Prop := d = fpEighth m ∨ d = fpQuarter m ∨ d = fpHalf m

/-- The configuration registers hold legal values (R21 to R23). -/
abbrev RegistersOk (s : State) : Prop :=
  1000 ≤ s.cfgSR.toNat ∧ s.cfgSR.toNat ≤ 16777215 ∧
  s.cfgMAXV.toNat ≤ 32767 ∧ s.cfgMAXVTRI.toNat ≤ 32767

/-- The four channel records hold legal values (R28 to R35). -/
abbrev ChannelsOk (s : State) : Prop :=
  (MarkersOk s.time s.ch0 ∧ MarkersOk s.time s.ch1 ∧ MarkersOk s.time s.ch2 ∧
    MarkersOk s.time s.ch3) ∧
  (VolumesOk s.cfgMAXV s.ch0 ∧ VolumesOk s.cfgMAXV s.ch1 ∧ VolumesOk s.cfgMAXVTRI s.ch2 ∧
    VolumesOk s.cfgMAXV s.ch3) ∧
  (tonalPhaseOk s.config.fpFormat s.ch0.phase = true ∧
    tonalPhaseOk s.config.fpFormat s.ch1.phase = true ∧
    tonalPhaseOk s.config.fpFormat s.ch2.phase = true ∧
    noisePhaseOk s.config.fpFormat s.ch3.phase = true) ∧
  DutyOk s.config.fpFormat s.duty0 ∧ DutyOk s.config.fpFormat s.duty1 ∧ s.seed ≠ 0#16

/-- A legal state: legal parameters (R8) and, once initialised, legal registers and channels. Before
INIT the other fields hold no value (R25) and nothing is asked of them. -/
abbrev LegalState (s : State) : Prop :=
  s.config.Legal ∧ (s.inited = true → RegistersOk s ∧ ChannelsOk s)

/-- A step is safe when it does not fault; a refusal is the spec's own answer (R161). -/
def SafeStep (s : State) : Prop := ∀ f : Fault, step s ≠ .fault f

end Sys2Proof.Machine
end

