-- ==== Sys2Proof/Certificates/Slice0/Obligations.lean ====
section
/-!
DEFINITION. The statements about the block. Field values are written with numerals and plain
arithmetic on the operand words, independently of the model's own accessors.
-/

namespace Sys2Proof.Claims

open Sys2Proof Sys2Proof.Machine

/-- The TONE row of a channel (R73). -/
def toneOf (i : Chan) (w0 w1 w2 w3 : Word) : Instr :=
  match i with
  | .p0 => .toneP0 w0 w1 w2 w3
  | .p1 => .toneP1 w0 w1 w2 w3
  | .tri => .toneTri w0 w1 w2 w3
  | .noise => .toneNoise w0 w1 w2 w3

/-- The length in samples of a number of envelope ticks (R93). -/
def samplesOf (s : State) (ticks : Nat) : Nat := s.cfgSR.toNat * ticks / 60

/-- The end of the attack, from the most significant byte of W1 (R63, R93). -/
def attackEnd (s : State) (w1 : Word) : Nat := s.time.toNat + samplesOf s (w1.toNat / 2 ^ 24)

/-- The end of the decay, from byte 2 of W1. -/
def decayEnd (s : State) (w1 : Word) : Nat :=
  attackEnd s w1 + samplesOf s (w1.toNat / 2 ^ 16 % 2 ^ 8)

/-- The end of the sustain, from byte 0 of W1. -/
def sustainEnd (s : State) (w1 : Word) : Nat := decayEnd s w1 + samplesOf s (w1.toNat % 2 ^ 8)

/-- The end of the release, from byte 1 of W1, with the triangle's extension (R98). -/
def releaseEnd (i : Chan) (s : State) (w1 : Word) : Nat :=
  sustainEnd s w1 + samplesOf s (w1.toNat / 2 ^ 8 % 2 ^ 8) +
    (if i = .tri ∧ w1.toNat / 2 ^ 8 % 2 ^ 8 = 0 then s.cfgSR.toNat / 1000 else 0)

/-- A TONE on channel `i` is not refused in `s`: the block is initialised and the release marker has
64 bits (R90). -/
abbrev Accepts (i : Chan) (s : State) (w1 : Word) : Prop :=
  s.inited = true ∧ releaseEnd i s w1 ≤ 2 ^ 64 - 1

/-- The operands of an INIT that is not refused (R150). -/
abbrev LegalInit (w0 w1 w2 : Word) : Prop :=
  1000 ≤ w0.toNat ∧ w0.toNat ≤ 16777215 ∧ w1.toNat % 2 ^ 16 ≤ 32767 ∧ w2.toNat % 2 ^ 16 ≤ 32767

/-- The maximum volume of a channel (R95). -/
def maxOf (s : State) (i : Chan) : Nat := if i = .tri then s.cfgMAXVTRI.toNat else s.cfgMAXV.toNat

/-- A channel sounds at a sample time (R33, R140). -/
abbrev Sounds (s : State) (i : Chan) : Prop := s.time.toNat < (chan s i).releaseTime.toNat

/-- The frequency of channel `i` at the current sample time (R110). -/
def freqIn (s : State) (i : Chan) : Int := freqAt s.config.fpFormat (chan s i) s.time

/-- The volume of channel `i` at the current sample time (R111). -/
def volIn (s : State) (i : Chan) : Int := volAt s.config.fpFormat (chan s i) s.time

/-- The phase to which a TICK advances tonal channel `i` (R120). -/
def advancedPhase (s : State) (i : Chan) : Option Fp :=
  advance s.config.fpFormat s.cfgSR (freqIn s i) (chan s i).phase

/-- The generator to which a TICK advances the noise channel (R130, R131). -/
def advancedNoise (s : State) : Option NoiseGen :=
  noiseAdvance s.config.fpFormat s.cfgSR (freqIn s .noise) (noiseGen s)

/-- A pulse sample with duty cycle `d` at the advanced phase of channel `i` (R121); 0 where the advance
has no result. -/
def pulseIn (s : State) (i : Chan) (d : Fp) : Int :=
  match advancedPhase s i with
  | some ph =>
    pulseSample s.config.fpFormat d ph (phaseInc s.config.fpFormat s.cfgSR (freqIn s i)) (volIn s i)
  | none => 0

/-- The triangle's sample at its advanced phase (R125). -/
def triangleIn (s : State) : Int :=
  match advancedPhase s .tri with
  | some ph => triangleSample s.config.fpFormat ph (volIn s .tri)
  | none => 0

/-- The noise sample: the volume times the new lastRandom (R132). -/
def noiseIn (s : State) : Int :=
  match advancedNoise s with
  | some g => volIn s .noise * lastRandomInt g.lastRandom
  | none => 0

/-- The sample channel `i` contributes in `s`, by the channel's role (R144): the pulse with its own duty
cycle on channels 0 and 1, the triangle on channel 2, the noise on channel 3. -/
def sampleIn (s : State) (i : Chan) : Int :=
  match i with
  | .p0 => pulseIn s .p0 s.duty0
  | .p1 => pulseIn s .p1 s.duty1
  | .tri => triangleIn s
  | .noise => noiseIn s

/-- A TICK in `s` leaves tonal channel `i` at phase `ph`: advanced where the channel sounds, held where
it does not (R120, R140). -/
abbrev PhaseLeft (s : State) (i : Chan) (ph : Fp) : Prop :=
  if Sounds s i then advancedPhase s i = some ph else ph = (chan s i).phase

/-- A TICK in `s` leaves the noise generator at `g` (R130, R140). -/
abbrev NoiseLeft (s : State) (g : NoiseGen) : Prop :=
  if Sounds s .noise then advancedNoise s = some g else g = noiseGen s

/-- The phase of ADVANCE after the increment of one sample and `k` subtractions of 1 (R120). -/
def phaseAfter (m : FpFormat) (sr : BitVec 32) (f : Int) (ph : Fp) (k : Nat) : Fp :=
  Nat.iterate (fun x => fsub m x (fp m 1)) k (fadd m ph (fdiv m (fp m f) (fp m sr.toNat)))

/-- The parabola of POLYBLEP, `2t - t^2` (R123). -/
def edgeCurve (m : FpFormat) (x : Fp) : Fp := fsub m (fadd m x x) (fmul m x x)

/-- The accumulator of NOISE after the increment of one sample and `k` subtractions of 1 (R130). -/
def accumulatorAfter (m : FpFormat) (sr : BitVec 32) (f : Int) (ph : Fp) (k : Nat) : Fp :=
  Nat.iterate (fun x => fsub m x (fp m 1)) k
    (fadd m ph (fdiv m (fp m (f * f)) (fmul m (fdiv m (fp m 1000000) (fp m 44100)) (fp m sr.toNat))))

/-- One saturating addition on integers (R14, R142). -/
def clampAdd (a x : Int) : Int := max (-32768) (min 32767 (a + x))

/-- One side of the mix: the samples of the sounding channels whose pan is not `p`, added in index
order with saturation (R141, R142). -/
def mixedSide (s : State) (p : BitVec 2) : Int :=
  [Chan.p0, .p1, .tri, .noise].foldl
    (fun a i => if Sounds s i ∧ (chan s i).pan ≠ p then clampAdd a (sampleIn s i) else a) 0

/-- One side of the mix without saturation (R148). -/
def plainSide (s : State) (p : BitVec 2) : Int :=
  [Chan.p0, .p1, .tri, .noise].foldl
    (fun a i => if Sounds s i ∧ (chan s i).pan ≠ p then a + sampleIn s i else a) 0

/-- The five markers of a channel do not decrease (R28). -/
abbrev Ordered (c : Channel) : Prop :=
  c.startTime.toNat ≤ c.attackTime.toNat ∧ c.attackTime.toNat ≤ c.decayTime.toNat ∧
  c.decayTime.toNat ≤ c.sustainTime.toNat ∧ c.sustainTime.toNat ≤ c.releaseTime.toNat

/-- The sample rates INIT accepts (R6). -/
abbrev LegalRate (sr : BitVec 32) : Prop := 1000 ≤ sr.toNat ∧ sr.toNat ≤ 16777215

/-- A frequency (R110). -/
abbrev LegalFreq (f : Int) : Prop := 0 ≤ f ∧ f ≤ 65535

/-- A value of the format in [0, 1]. -/
abbrev InUnit (m : FpFormat) (x : Fp) : Prop :=
  representable m x = true ∧ ∃ a, a ≤ oneMag m ∧ x = .fin false a

/-- A magnitude of at most `p` significant bits. -/
abbrev Fits (p k : Nat) : Prop := k % 2 ^ (Nat.log2 k + 1 - p) = 0

end Sys2Proof.Claims

open Sys2Proof Sys2Proof.Machine Sys2Proof.Claims

/-! ## Encoding -/

/-- Every well-formed operation of every row decodes to itself from its encoding, with every operand
at every value (R60, R61, R73). -/
def Obligations.DecodeOfEncode : Prop := ∀ i : Instr, i.wellFormed = true → decode (encode i) = i

/-- Every 130-bit operation decodes to a well-formed operation whose encoding it is: no bit is dropped
and no operation is rejected (R69, R71, R73). -/
def Obligations.EncodeOfDecode : Prop :=
  ∀ w : OpBits, (decode w).wellFormed = true ∧ encode (decode w) = w

/-- The operation map of R73: a key matches exactly one row, and an operation decodes to a row exactly
when its key matches that row. That a key matches exactly one row is the spec's own inference, which R73
marks as derived. -/
def Obligations.KeyMatchesExactlyOneRow : Prop :=
  (∀ k : BitVec 34, (opcodeMap.filter fun r => k &&& r.2 == r.1).length = 1) ∧
  ∀ w : OpBits,
    (keyOf w &&& 0x300000000#34 = 0x000000000#34 ↔
      decode w = .tick (w0Field w) (w1Field w) (w2Field w) (w3Field w)) ∧
    (keyOf w &&& 0x300000003#34 = 0x100000000#34 ↔
      decode w = .toneP0 (w0Field w) (w1Field w) (w2Field w) (w3Field w)) ∧
    (keyOf w &&& 0x300000003#34 = 0x100000001#34 ↔
      decode w = .toneP1 (w0Field w) (w1Field w) (w2Field w) (w3Field w)) ∧
    (keyOf w &&& 0x300000003#34 = 0x100000002#34 ↔
      decode w = .toneTri (w0Field w) (w1Field w) (w2Field w) (w3Field w)) ∧
    (keyOf w &&& 0x300000003#34 = 0x100000003#34 ↔
      decode w = .toneNoise (w0Field w) (w1Field w) (w2Field w) (w3Field w)) ∧
    (keyOf w &&& 0x300000000#34 = 0x200000000#34 ↔
      decode w = .init (w0Field w) (w1Field w) (w2Field w) (w3Field w)) ∧
    (keyOf w &&& 0x300000000#34 = 0x300000000#34 ↔
      decode w = .reserved (w0Field w) (w1Field w) (w2Field w) (w3Field w))

/-- Words written out in 95_test_vectors.md decode to the operations they stand for. -/
def Obligations.DecodesWordsOfTheSpec : Prop :=
  decode 0x0_00000000_00000000_00000000_00000000#130 = .tick 0#32 0#32 0#32 0#32 ∧
  decode 0x1_00000018_00000064_00000001_00000064#130 = .toneP0 0x64#32 0x1#32 0x64#32 0x18#32 ∧
  decode 0x1_00000001_00006432_01010101_00C80064#130 =
    .toneP1 0x00C80064#32 0x01010101#32 0x00006432#32 0x1#32 ∧
  decode 0x1_00000022_00000064_00000001_00000064#130 = .toneTri 0x64#32 0x1#32 0x64#32 0x22#32 ∧
  decode 0x1_00000023_00000064_00000001_000003E8#130 = .toneNoise 0x3E8#32 0x1#32 0x64#32 0x23#32 ∧
  decode 0x2_00000000_00002000_00001333_000003E8#130 = .init 0x3E8#32 0x1333#32 0x2000#32 0x0#32 ∧
  decode 0x3_DEADBEEF_00000000_00000000_00000000#130 = .reserved 0#32 0#32 0#32 0xDEADBEEF#32

/-- The operand macros of R72 put each argument in the field R62 to R65 name, for every argument that
fits its field. -/
def Obligations.MacrosFillTheirFields : Prop :=
  (∀ f1 f2 : Nat, f1 < 2 ^ 16 → f2 < 2 ^ 16 →
    (freq1Field (BitVec.ofNat 32 (asmFreq f1 f2))).toNat = f1 ∧
    (freq2Field (BitVec.ofNat 32 (asmFreq f1 f2))).toNat = f2) ∧
  (∀ a d s r : Nat, a < 2 ^ 8 → d < 2 ^ 8 → s < 2 ^ 8 → r < 2 ^ 8 →
    (attackTicks (BitVec.ofNat 32 (asmDur a d s r))).toNat = a ∧
    (decayTicks (BitVec.ofNat 32 (asmDur a d s r))).toNat = d ∧
    (sustainTicks (BitVec.ofNat 32 (asmDur a d s r))).toNat = s ∧
    (releaseTicks (BitVec.ofNat 32 (asmDur a d s r))).toNat = r) ∧
  (∀ peak sus : Nat, peak < 2 ^ 8 → sus < 2 ^ 8 →
    (peakByte (BitVec.ofNat 32 (asmVol peak sus))).toNat = peak ∧
    (sustainByte (BitVec.ofNat 32 (asmVol peak sus))).toNat = sus) ∧
  (∀ c mode pan : Nat, c < 2 ^ 2 → mode < 2 ^ 2 → pan < 2 ^ 2 →
    (channelBits (BitVec.ofNat 32 (asmFlags c mode pan))).toNat = c ∧
    (modeField (BitVec.ofNat 32 (asmFlags c mode pan))).toNat = mode ∧
    (panField (BitVec.ofNat 32 (asmFlags c mode pan))).toNat = pan)

/-! ## Stepping -/

/-- A step takes the oldest operation of the stream and executes what it decodes to; with nothing
pending the state is held (R55, R173). -/
def Obligations.StepRunsTheDecodedOperation : Prop :=
  (∀ (s : State) (w : OpBits) (rest : List OpBits), s.ops = w :: rest →
    step s = exec (decode w) { s with ops := rest }) ∧
  ∀ s : State, s.ops = [] → step s = .next s

/-- A table word placed for fetching is the operation the very next step runs (assumptions 2 and 10). -/
def Obligations.PlacedWordRunsNext : Prop :=
  ∀ (s : State) (nbits w : Nat) (i : Instr), decodeTableWord nbits w = some i →
    step (s.withFetchWord nbits w) = exec i s

/-! ## Legal states -/

/-- Power-on is a legal state: `inited` is 0 and no frame has been emitted (R180). -/
def Obligations.PowerOnIsLegal : Prop :=
  LegalState State.reset ∧ State.reset.inited = false ∧ State.reset.frames = [] ∧ State.reset.ops = []

/-- Every step from a legal state leads to a legal state: the marker order of R28, the ranges of R21
to R23, R29, R30 and R32, and the nonzero seed of R34 are kept. The noise accumulator's range is
[-1, 0] (assumption 12), where R30 says (-1, 0]. -/
def Obligations.StepKeepsLegalStates : Prop :=
  ∀ s t : State, LegalState s → step s = .next t → LegalState t

/-- No step from a legal state faults: every phase loop ends (R120, R133), which is the block's
"no exception" (R160) in this model (assumption 8). -/
def Obligations.LegalStatesNeverFault : Prop := ∀ s : State, LegalState s → SafeStep s

/-- EXPECTED TO FAIL: R30 says the noise accumulator stays above -1. In binary32 a small increment
from 0 followed by the subtraction of 1 rounds to exactly -1 (assumption 12). -/
def Obligations.NoisePhaseStaysAboveMinusOne : Prop :=
  ∀ s t : State, LegalState s → s.inited = true →
    s.ch3.phase ≠ .fin true (oneMag s.config.fpFormat) → step s = .next t →
    t.ch3.phase ≠ .fin true (oneMag t.config.fpFormat)

/-! ## INIT and RESERVED -/

/-- INIT (R150): an illegal sample rate is refused, then an illegal maximum volume; a legal INIT
answers the state whose every field R181 lists, whatever the state before. -/
def Obligations.InitConfiguresAndResets : Prop :=
  ∀ (w0 w1 w2 w3 : Word) (s : State),
    ((w0.toNat < 1000 ∨ 16777215 < w0.toNat) →
      exec (.init w0 w1 w2 w3) s = .refused (.badSampleRate 2#2 w0)) ∧
    (1000 ≤ w0.toNat → w0.toNat ≤ 16777215 →
      (32767 < w1.toNat % 2 ^ 16 ∨ 32767 < w2.toNat % 2 ^ 16) →
      exec (.init w0 w1 w2 w3) s = .refused (.badMaxVolume 2#2 w1 w2)) ∧
    (LegalInit w0 w1 w2 →
      ∃ t, exec (.init w0 w1 w2 w3) s = .next t ∧
        t.config = s.config ∧ t.ops = s.ops ∧ t.frames = s.frames ∧
        t.cfgSR.toNat = w0.toNat ∧ t.cfgMAXV.toNat = w1.toNat % 2 ^ 16 ∧
        t.cfgMAXVTRI.toNat = w2.toNat % 2 ^ 16 ∧ t.time.toNat = 0 ∧ t.inited = true ∧
        (∀ i : Chan,
          (chan t i).freq1.toNat = 0 ∧ (chan t i).freq2.toNat = 0 ∧
          (chan t i).startTime.toNat = 0 ∧ (chan t i).attackTime.toNat = 0 ∧
          (chan t i).decayTime.toNat = 0 ∧ (chan t i).sustainTime.toNat = 0 ∧
          (chan t i).releaseTime.toNat = 0 ∧ (chan t i).peakVolume.toNat = 0 ∧
          (chan t i).sustainVolume.toNat = 0 ∧ (chan t i).phase = fp s.config.fpFormat 0 ∧
          (chan t i).pan.toNat = 0) ∧
        t.duty0 = fdiv s.config.fpFormat (fp s.config.fpFormat 1) (fp s.config.fpFormat 4) ∧
        t.duty1 = fdiv s.config.fpFormat (fp s.config.fpFormat 1) (fp s.config.fpFormat 4) ∧
        t.seed = s.config.noiseSeedInit ∧ t.lastRandom = s.config.lastRandomInit)

/-- Nothing of the architectural state survives an INIT: its answer depends only on the parameters and
the two streams (R152). -/
def Obligations.InitForgetsTheState : Prop :=
  ∀ (w0 w1 w2 w3 : Word) (s s' : State),
    s.config = s'.config → s.ops = s'.ops → s.frames = s'.frames →
    exec (.init w0 w1 w2 w3) s = exec (.init w0 w1 w2 w3) s'

/-- RESERVED stops by refusal in every state, with the operation's words recorded (R151, R166). -/
def Obligations.ReservedIsAlwaysRefused : Prop :=
  ∀ (w0 w1 w2 w3 : Word) (s : State),
    exec (.reserved w0 w1 w2 w3) s = .refused (.reservedOperation 3#2 w0 w1 w2 w3)

/-- Which operations are refused, why, and with what recorded: the checks in the order of R167. -/
def Obligations.RefusalsAndTheirOrder : Prop :=
  ∀ (w0 w1 w2 w3 : Word) (s : State) (r : Refusal),
    (exec (.tick w0 w1 w2 w3) s = .refused r ↔
      (s.inited = false ∧ r = .notInitialised 0#2 w0 w1 w2 w3) ∨
      (s.inited = true ∧ s.time.toNat = 2 ^ 64 - 1 ∧ r = .timeOverflow 0#2)) ∧
    (∀ i : Chan, exec (toneOf i w0 w1 w2 w3) s = .refused r ↔
      (s.inited = false ∧ r = .notInitialised 1#2 w0 w1 w2 w3) ∨
      (s.inited = true ∧ 2 ^ 64 - 1 < releaseEnd i s w1 ∧
        r = .markerOverflow 1#2 w0 w1 w2 w3 s.time)) ∧
    (exec (.init w0 w1 w2 w3) s = .refused r ↔
      ((w0.toNat < 1000 ∨ 16777215 < w0.toNat) ∧ r = .badSampleRate 2#2 w0) ∨
      (1000 ≤ w0.toNat ∧ w0.toNat ≤ 16777215 ∧
        (32767 < w1.toNat % 2 ^ 16 ∨ 32767 < w2.toNat % 2 ^ 16) ∧
        r = .badMaxVolume 2#2 w1 w2)) ∧
    (exec (.reserved w0 w1 w2 w3) s = .refused r ↔ r = .reservedOperation 3#2 w0 w1 w2 w3)

/-! ## TONE -/

/-- TONE.P0, TONE.P1, TONE.TRI and TONE.NOISE complete wherever they are not refused, and write the
five time markers of R93, with the triangle's extension of R98. -/
def Obligations.ToneSetsMarkers : Prop :=
  ∀ (i : Chan) (w0 w1 w2 w3 : Word) (s : State), Accepts i s w1 →
    ∃ t, exec (toneOf i w0 w1 w2 w3) s = .next t ∧
      (chan t i).startTime.toNat = s.time.toNat ∧
      (chan t i).attackTime.toNat = attackEnd s w1 ∧
      (chan t i).decayTime.toNat = decayEnd s w1 ∧
      (chan t i).sustainTime.toNat = sustainEnd s w1 ∧
      (chan t i).releaseTime.toNat = releaseEnd i s w1

/-- The four TONE rows write the volumes of R95: bytes clamped to 100, scaled by the channel's maximum
volume, a peak byte of 0 meaning the maximum. -/
def Obligations.ToneScalesVolumes : Prop :=
  ∀ (i : Chan) (w0 w1 w2 w3 : Word) (s : State), Accepts i s w1 →
    ∃ t, exec (toneOf i w0 w1 w2 w3) s = .next t ∧
      (chan t i).sustainVolume.toNat = maxOf s i * min (w2.toNat % 2 ^ 8) 100 / 100 ∧
      (chan t i).peakVolume.toNat =
        (if min (w2.toNat / 2 ^ 8 % 2 ^ 8) 100 = 0 then maxOf s i
         else maxOf s i * min (w2.toNat / 2 ^ 8 % 2 ^ 8) 100 / 100)

/-- The four TONE rows reset the phase exactly when the sample time is past the old release marker, to
0.25 on the triangle and 0 on the others; at equality it is kept (R91, C1). The seed and lastRandom
are kept. -/
def Obligations.ToneRetriggersIdleChannels : Prop :=
  ∀ (i : Chan) (w0 w1 w2 w3 : Word) (s : State), Accepts i s w1 →
    ∃ t, exec (toneOf i w0 w1 w2 w3) s = .next t ∧
      (chan t i).phase =
        (if (chan s i).releaseTime.toNat < s.time.toNat then
          (if i = .tri then fdiv s.config.fpFormat (fp s.config.fpFormat 1) (fp s.config.fpFormat 4)
           else fp s.config.fpFormat 0)
         else (chan s i).phase) ∧
      t.seed = s.seed ∧ t.lastRandom = s.lastRandom

/-- TONE on the pulse channels writes the duty cycle of its mode: 0 gives 1/8, 2 gives 1/2, 1 and 3
give 1/4; TONE on the other channels writes none (R97). -/
def Obligations.ToneSetsDutyCycle : Prop :=
  ∀ (i : Chan) (w0 w1 w2 w3 : Word) (s : State), Accepts i s w1 →
    ∃ t, exec (toneOf i w0 w1 w2 w3) s = .next t ∧
      t.duty0 = (if i = .p0 then fdiv s.config.fpFormat (fp s.config.fpFormat 1)
        (fp s.config.fpFormat
          (if w3.toNat / 4 % 4 = 0 then 8 else if w3.toNat / 4 % 4 = 2 then 2 else 4))
        else s.duty0) ∧
      t.duty1 = (if i = .p1 then fdiv s.config.fpFormat (fp s.config.fpFormat 1)
        (fp s.config.fpFormat
          (if w3.toNat / 4 % 4 = 0 then 8 else if w3.toNat / 4 % 4 = 2 then 2 else 4))
        else s.duty1)

/-- The four TONE rows write both frequencies and the pan from their fields (R62, R96). -/
def Obligations.ToneSetsFrequenciesAndPan : Prop :=
  ∀ (i : Chan) (w0 w1 w2 w3 : Word) (s : State), Accepts i s w1 →
    ∃ t, exec (toneOf i w0 w1 w2 w3) s = .next t ∧
      (chan t i).freq1.toNat = w0.toNat % 2 ^ 16 ∧
      (chan t i).freq2.toNat = w0.toNat / 2 ^ 16 ∧
      (chan t i).pan.toNat = w3.toNat / 2 ^ 4 % 4

/-- A TONE writes nothing outside its channel's record and, on a pulse channel, that channel's duty
cycle, and it accepts every operand pattern apart from its two refusals (R99). -/
def Obligations.ToneTouchesOneChannel : Prop :=
  (∀ (i : Chan) (w0 w1 w2 w3 : Word) (s t : State),
    exec (toneOf i w0 w1 w2 w3) s = .next t →
      t.config = s.config ∧ t.ops = s.ops ∧ t.frames = s.frames ∧ t.cfgSR = s.cfgSR ∧
      t.cfgMAXV = s.cfgMAXV ∧ t.cfgMAXVTRI = s.cfgMAXVTRI ∧ t.time = s.time ∧
      t.inited = s.inited ∧ t.seed = s.seed ∧ t.lastRandom = s.lastRandom ∧
      (∀ j : Chan, j ≠ i → chan t j = chan s j) ∧
      (i ≠ .p0 → t.duty0 = s.duty0) ∧ (i ≠ .p1 → t.duty1 = s.duty1)) ∧
  ∀ (i : Chan) (w0 w1 w2 w3 : Word) (s : State), Accepts i s w1 →
    ∃ t, exec (toneOf i w0 w1 w2 w3) s = .next t

/-- Two TONEs on one channel with no TICK between leave only the second: after the first, the second
answers what it would have answered in its place (R90, R187). -/
def Obligations.SecondToneOverwritesFirst : Prop :=
  ∀ (i : Chan) (a0 a1 a2 a3 b0 b1 b2 b3 : Word) (s t : State),
    exec (toneOf i a0 a1 a2 a3) s = .next t →
    exec (toneOf i b0 b1 b2 b3) t = exec (toneOf i b0 b1 b2 b3) s

/-! ## TICK and WRITE_SAMPLES -/

/-- TICK completes in every legal initialised state whose time is not at the top: one frame is emitted
and the time advances by one (R24, R144). -/
def Obligations.TickCompletes : Prop :=
  ∀ (w0 w1 w2 w3 : Word) (s : State), LegalState s → s.inited = true → s.time.toNat < 2 ^ 64 - 1 →
    ∃ t f, exec (.tick w0 w1 w2 w3) s = .next t ∧ t.time.toNat = s.time.toNat + 1 ∧
      t.frames = s.frames ++ [f]

/-- A TICK with no channel sounding emits a frame of zeros and changes nothing but the time (R140,
R144). -/
def Obligations.SilentTick : Prop :=
  ∀ (w0 w1 w2 w3 : Word) (s : State), s.inited = true → s.time.toNat < 2 ^ 64 - 1 →
    (∀ i : Chan, ¬ Sounds s i) →
    exec (.tick w0 w1 w2 w3) s =
      .next { s with time := s.time + 1#64
                     frames := s.frames ++ [{ left := 0#16, right := 0#16 }] }

/-- Ownership (R40): a TONE writes the fields of its own channel only; a TICK writes only the time, the
phase of each sounding channel, and the seed and lastRandom when channel 3 sounds. Beside that state,
TICK appends one frame. -/
def Obligations.TickAndToneWriteOnlyTheirOwn : Prop :=
  (∀ (i : Chan) (w0 w1 w2 w3 : Word) (s t : State),
    exec (toneOf i w0 w1 w2 w3) s = .next t →
      (∀ j : Chan, j ≠ i → chan t j = chan s j) ∧ t.time = s.time ∧ t.inited = s.inited ∧
      t.cfgSR = s.cfgSR ∧ t.cfgMAXV = s.cfgMAXV ∧ t.cfgMAXVTRI = s.cfgMAXVTRI ∧
      t.seed = s.seed ∧ t.lastRandom = s.lastRandom ∧
      (i ≠ .p0 → t.duty0 = s.duty0) ∧ (i ≠ .p1 → t.duty1 = s.duty1)) ∧
  ∀ (w0 w1 w2 w3 : Word) (s t : State), exec (.tick w0 w1 w2 w3) s = .next t →
    t.config = s.config ∧ t.ops = s.ops ∧ (∃ f, t.frames = s.frames ++ [f]) ∧
    t.cfgSR = s.cfgSR ∧ t.cfgMAXV = s.cfgMAXV ∧ t.cfgMAXVTRI = s.cfgMAXVTRI ∧
    t.time.toNat = s.time.toNat + 1 ∧ t.inited = s.inited ∧ t.duty0 = s.duty0 ∧
    t.duty1 = s.duty1 ∧
    (∀ i : Chan, chan t i = { chan s i with phase := (chan t i).phase }) ∧
    (∀ i : Chan, ¬ Sounds s i → chan t i = chan s i) ∧
    (¬ Sounds s .noise → t.seed = s.seed ∧ t.lastRandom = s.lastRandom)

/-- The frame of a TICK (R141, R142): each side is the samples of the sounding channels that its pan
lets through, added to 0 in index order, every addition saturating to 16 bits. Each sample is the one
the channel's role gives from the state before the TICK (R144): channel 0 the pulse with duty0, channel 1
the pulse with duty1, channel 2 the triangle, each at its advanced phase and with its volume, channel 3
its volume times the new lastRandom (R121, R125, R132). -/
def Obligations.TickMixesInIndexOrder : Prop :=
  ∀ (w0 w1 w2 w3 : Word) (s t : State), exec (.tick w0 w1 w2 w3) s = .next t →
    ∃ f, t.frames = s.frames ++ [f] ∧ f.left.toInt = mixedSide s 2#2 ∧
      f.right.toInt = mixedSide s 1#2

/-- With 3 * MAXV + MAXV_TRI at most 32767 no addition saturates: each side of the frame is the plain
sum, and every sample is within its channel's maximum volume (R143, R148). -/
def Obligations.NoSaturationBelowFullScale : Prop :=
  ∀ (w0 w1 w2 w3 : Word) (s t : State), LegalState s →
    3 * s.cfgMAXV.toNat + s.cfgMAXVTRI.toNat ≤ 32767 → exec (.tick w0 w1 w2 w3) s = .next t →
    (∀ i : Chan, Sounds s i → (sampleIn s i).natAbs ≤ maxOf s i) ∧
    ∃ f, t.frames = s.frames ++ [f] ∧ f.left.toInt = plainSide s 2#2 ∧
      f.right.toInt = plainSide s 1#2

/-- Chunking invariance (R146, which the spec marks as its own inference from R145 and R55):
WRITE_SAMPLES of a sum is the first part and, where that ends in a next state, the second from there. -/
def Obligations.ChunkingInvariance : Prop :=
  ∀ (a b : Nat) (s : State),
    writeSamples (a + b) s =
      match (writeSamples a s).2 with
      | .next t => writeSamples b t
      | .fault _ => writeSamples a s
      | .refused _ => writeSamples a s

/-- WRITE_SAMPLES n is n TICKs of the stream: running n steps on n TICK words ends as WRITE_SAMPLES
does (R72, R145). -/
def Obligations.WriteSamplesIsTicksOfTheStream : Prop :=
  ∀ (n : Nat) (s : State) (rest : List OpBits),
    Host.Core.run core n { s with ops := List.replicate n asmTick ++ rest } =
      (writeSamples n { s with ops := rest }).2

/-- WRITE_SAMPLES n from a legal state emits n frames and advances the time by n (R145). -/
def Obligations.WriteSamplesEmitsItsCount : Prop :=
  ∀ (n : Nat) (s : State), LegalState s → s.inited = true → s.time.toNat + n ≤ 2 ^ 64 - 1 →
    ∃ t fs, (writeSamples n s).2 = .next t ∧ t.frames = s.frames ++ fs ∧ fs.length = n ∧
      t.time.toNat = s.time.toNat + n

/-- Silence on idle (R147, which the spec marks as its own inference from R144, R140 and R150): right
after an INIT no channel is active until a TONE, so every frame of any number of TICKs is (0, 0). -/
def Obligations.SilenceAfterInit : Prop :=
  ∀ (w0 w1 w2 w3 : Word) (s t : State) (n : Nat),
    exec (.init w0 w1 w2 w3) s = .next t → n ≤ 2 ^ 64 - 1 →
    (∀ i : Chan, (chan t i).releaseTime.toNat = 0) ∧
    ∃ u, (writeSamples n t).2 = .next u ∧
      u.frames = t.frames ++ List.replicate n { left := 0#16, right := 0#16 } ∧
      ∀ i : Chan, ¬ Sounds u i

/-! ## Rules of the whole machine -/

/-- The sample-time counter (R24): a TICK adds 1, an INIT sets 0, no other operation writes it, and a
TICK at the top is refused. -/
def Obligations.TimeWriters : Prop :=
  (∀ (s t : State) (w : OpBits) (rest : List OpBits), s.ops = w :: rest → step s = .next t →
    (opField w = 0#2 → t.time.toNat = s.time.toNat + 1) ∧
    (opField w = 1#2 → t.time = s.time) ∧ (opField w = 2#2 → t.time.toNat = 0) ∧
    opField w ≠ 3#2) ∧
  ∀ (s : State) (w : OpBits) (rest : List OpBits), s.ops = w :: rest → opField w = 0#2 →
    s.inited = true → s.time.toNat = 2 ^ 64 - 1 → step s = .refused (.timeOverflow 0#2)

/-- The status bit (R25): no step clears it, and only INIT sets it. -/
def Obligations.InitedIsNeverCleared : Prop :=
  ∀ s t : State, step s = .next t →
    (s.inited = true → t.inited = true) ∧
    (s.inited = false → t.inited = true →
      ∃ w rest, s.ops = w :: rest ∧ opField w = 2#2)

/-- Phase continuity (R39): a channel's phase changes only by INIT, by a TONE of that channel while it
is idle, or by a TICK while it sounds. -/
def Obligations.PhaseWriters : Prop :=
  ∀ (s t : State) (i : Chan), step s = .next t → (chan t i).phase ≠ (chan s i).phase →
    ∃ w rest, s.ops = w :: rest ∧
      ((∃ w0 w1 w2 w3, decode w = .init w0 w1 w2 w3) ∨
       (∃ w0 w1 w2 w3, decode w = toneOf i w0 w1 w2 w3 ∧
          (chan s i).releaseTime.toNat < s.time.toNat) ∨
       (∃ w0 w1 w2 w3, decode w = .tick w0 w1 w2 w3 ∧ Sounds s i))

/-- The LFSR (R34, R35): the seed and lastRandom change only by INIT or by a TICK while channel 3
sounds; TONE never writes them. -/
def Obligations.LfsrWriters : Prop :=
  ∀ s t : State, step s = .next t → (t.seed ≠ s.seed ∨ t.lastRandom ≠ s.lastRandom) →
    ∃ w rest, s.ops = w :: rest ∧
      ((∃ w0 w1 w2 w3, decode w = .init w0 w1 w2 w3) ∨
       (∃ w0 w1 w2 w3, decode w = .tick w0 w1 w2 w3 ∧ Sounds s .noise))

/-- No step writes a parameter or takes back a frame, and the stream only loses its oldest operation
(R16, R20, R55). -/
def Obligations.ParametersAndFramesAreKept : Prop :=
  ∀ s t : State, step s = .next t →
    t.config = s.config ∧ (∃ fs, t.frames = s.frames ++ fs) ∧ t.ops = s.ops.tail

/-- No operation reads the output stream or the pending operations (R38, R59): with other frames
already emitted and other operations pending, an operation answers the same but for those. -/
def Obligations.StreamsAreNeverRead : Prop :=
  ∀ (i : Instr) (s : State) (fs : List Frame) (ws : List OpBits),
    exec i { s with frames := fs ++ s.frames, ops := ws } =
      match exec i s with
      | .next t => .next { t with frames := fs ++ t.frames, ops := ws }
      | .fault r => .fault r
      | .refused r => .refused r

/-- The ignored bits (R64 to R67): an operation that completes answers the same next state for every
value of the bits its row ignores. -/
def Obligations.IgnoredBitsHaveNoEffect : Prop :=
  (∀ (w0 w1 w2 w3 v0 v1 v2 v3 : Word) (s t : State),
    exec (.tick w0 w1 w2 w3) s = .next t → exec (.tick v0 v1 v2 v3) s = .next t) ∧
  (∀ (i : Chan) (w0 w1 w2 w3 v2 v3 : Word) (s t : State),
    v2.toNat % 2 ^ 16 = w2.toNat % 2 ^ 16 → v3.toNat % 2 ^ 6 = w3.toNat % 2 ^ 6 →
    exec (toneOf i w0 w1 w2 w3) s = .next t → exec (toneOf i w0 w1 v2 v3) s = .next t) ∧
  (∀ (w0 w1 w2 w3 v1 v2 v3 : Word) (s t : State),
    v1.toNat % 2 ^ 16 = w1.toNat % 2 ^ 16 → v2.toNat % 2 ^ 16 = w2.toNat % 2 ^ 16 →
    exec (.init w0 w1 w2 w3) s = .next t → exec (.init w0 v1 v2 v3) s = .next t)

/-! ## Floating point -/

/-- Rounding is to nearest, ties to even (R10): the rounded magnitude fits in the precision, no fitting
magnitude is nearer to the exact quotient, and where another is as near, the last bit is even. The
precision, the smallest subnormal and the range are those of IEEE 754 (R10; binary64 and binary128 by
assumption 4): 1 is 2^149, 2^1074 and 2^16494 subnormals. -/
def Obligations.RoundsToNearestEven : Prop :=
  (∀ (m : FpFormat) (num den : Nat), 0 < den →
    Fits (prec m) (roundMag (prec m) num den) ∧
    ∀ k : Nat, Fits (prec m) k →
      ((roundMag (prec m) num den * den : Int) - num).natAbs ≤ ((k * den : Int) - num).natAbs ∧
      (((roundMag (prec m) num den * den : Int) - num).natAbs = ((k * den : Int) - num).natAbs →
        k ≠ roundMag (prec m) num den →
        roundMag (prec m) num den /
          2 ^ (Nat.log2 (roundMag (prec m) num den) + 1 - prec m) % 2 = 0)) ∧
  (prec .binary32 = 24 ∧ prec .binary64 = 53 ∧ prec .binary128 = 113) ∧
  (oneMag .binary32 = 2 ^ 149 ∧ oneMag .binary64 = 2 ^ 1074 ∧ oneMag .binary128 = 2 ^ 16494) ∧
  limitMag .binary32 = 2 ^ 128 * oneMag .binary32 ∧
  limitMag .binary64 = 2 ^ 1024 * oneMag .binary64 ∧
  limitMag .binary128 = 2 ^ 16384 * oneMag .binary128

/-- `fadd`, `fsub`, `fmul` and `fdiv` of finite values are the exact result rounded once (R10, R15), or
an infinity past the range. The infinity is the model's reading of IEEE 754, which R10 and R15 name
without a word on overflow (assumption 5). `fp` of an integer is the integer rounded once, `fabs` clears
the sign, the comparisons compare the exact values, and `trunc` rounds a finite value of either sign
toward zero. Magnitudes are in units, of which `oneMag` make 1. -/
def Obligations.PrimitivesRoundOnce : Prop :=
  ∀ (m : FpFormat) (n1 n2 : Bool) (a b : Nat),
    (let z := signedMag n1 a + signedMag n2 b
     let r := roundMag (prec m) z.natAbs 1
     if limitMag m ≤ r then fadd m (.fin n1 a) (.fin n2 b) = .inf (decide (z < 0))
     else ∃ n, fadd m (.fin n1 a) (.fin n2 b) = .fin n r ∧ signedMag n r = z.sign * r) ∧
    (let z := signedMag n1 a - signedMag n2 b
     let r := roundMag (prec m) z.natAbs 1
     if limitMag m ≤ r then fsub m (.fin n1 a) (.fin n2 b) = .inf (decide (z < 0))
     else ∃ n, fsub m (.fin n1 a) (.fin n2 b) = .fin n r ∧ signedMag n r = z.sign * r) ∧
    (let r := roundMag (prec m) (a * b) (oneMag m)
     fmul m (.fin n1 a) (.fin n2 b) =
       if limitMag m ≤ r then .inf (n1 != n2) else .fin (n1 != n2) r) ∧
    (b ≠ 0 →
     let r := roundMag (prec m) (a * oneMag m) b
     fdiv m (.fin n1 a) (.fin n2 b) =
       if limitMag m ≤ r then .inf (n1 != n2) else .fin (n1 != n2) r) ∧
    (∀ n : Int,
     let r := roundMag (prec m) (n.natAbs * oneMag m) 1
     fp m n = if limitMag m ≤ r then .inf (decide (n < 0)) else .fin (decide (n < 0)) r) ∧
    fabs (.fin n1 a) = .fin false a ∧
    (flt (.fin n1 a) (.fin n2 b) = true ↔ signedMag n1 a < signedMag n2 b) ∧
    (fle (.fin n1 a) (.fin n2 b) = true ↔ signedMag n1 a ≤ signedMag n2 b) ∧
    trunc m (.fin n1 a) = Int.tdiv (signedMag n1 a) (oneMag m)

/-! ## Ramp and envelope -/

/-- The range of RAMP (R83, which the spec marks as its own inference from R81): the fraction is in [0, 1] and the result in the closed interval between
`a` and `b`; for non-negative ends it is non-negative and the truncation is a floor. -/
def Obligations.RampStaysBetweenItsEnds : Prop :=
  ∀ (m : FpFormat) (a b : Int) (time t1 t2 : Nat),
    a.natAbs ≤ 65535 → b.natAbs ≤ 65535 → t1 ≤ time → time ≤ t2 → t1 < t2 → t2 < 2 ^ 64 →
    InUnit m (rampTau m time t1 t2) ∧
    min a b ≤ ramp m a b time t1 t2 ∧ ramp m a b time t1 t2 ≤ max a b ∧
    (0 ≤ a → 0 ≤ b → 0 ≤ ramp m a b time t1 t2 ∧
      ∃ k, lerpF m a b (rampTau m time t1 t2) = .fin false k ∧
        ramp m a b time t1 t2 = ((k / oneMag m : Nat) : Int))

/-- RAMP is monotone in the time, rising or falling with its ends (R84, which the spec marks as its own
inference from R81). -/
def Obligations.RampIsMonotone : Prop :=
  ∀ (m : FpFormat) (a b : Int) (x y t1 t2 : Nat),
    a.natAbs ≤ 65535 → b.natAbs ≤ 65535 → t1 ≤ x → x ≤ y → y ≤ t2 → t1 < t2 → t2 < 2 ^ 64 →
    (a ≤ b → ramp m a b x t1 t2 ≤ ramp m a b y t1 t2) ∧
    (b ≤ a → ramp m a b y t1 t2 ≤ ramp m a b x t1 t2)

/-- RAMP is the truncated interpolation of R80 and R81 between its ends. It meets them: `a` at the start,
`b` at the end, and `b` on a zero-width interval (R82). -/
def Obligations.RampMeetsItsEnds : Prop :=
  ∀ (m : FpFormat) (a b : Int) (t1 t2 : Nat),
    a.natAbs ≤ 65535 → b.natAbs ≤ 65535 → t1 < t2 → t2 < 2 ^ 64 →
    ramp m a b t1 t1 t2 = a ∧ ramp m a b t2 t1 t2 = b ∧ (∀ time : Nat, ramp m a b time t1 t1 = b) ∧
    ∀ time : Nat, t1 ≤ time → time ≤ t2 →
      ramp m a b time t1 t2 =
        trunc m (fadd m (fp m a)
          (fmul m (fdiv m (fp m (time - t1 : Nat)) (fp m (t2 - t1 : Nat))) (fp m (b - a))))

/-- The frequency and the volume of a sounding channel with ordered markers are in range: 0..65535
(R110) and 0..32767 (R111). With freq2 = 0 the frequency is the constant freq1. Otherwise it is the ramp
from freq1 to freq2 over the life of the voice: freq1 at the start, between the two, and monotone from
the one to the other (R83 and R84, the spec's own inferences). -/
def Obligations.FrequencyAndVolumeInRange : Prop :=
  ∀ (m : FpFormat) (c : Channel) (t u : BitVec 64), Ordered c →
    c.startTime.toNat ≤ t.toNat → t.toNat ≤ u.toNat → u.toNat < c.releaseTime.toNat →
    c.peakVolume.toNat ≤ 32767 → c.sustainVolume.toNat ≤ 32767 →
    LegalFreq (freqAt m c t) ∧ (c.freq2.toNat = 0 → freqAt m c t = c.freq1.toNat) ∧
    (c.freq2.toNat ≠ 0 →
      freqAt m c t =
        ramp m c.freq1.toNat c.freq2.toNat t.toNat c.startTime.toNat c.releaseTime.toNat ∧
      freqAt m c c.startTime = c.freq1.toNat ∧
      (c.freq1.toNat ≤ c.freq2.toNat →
        (c.freq1.toNat : Int) ≤ freqAt m c t ∧ freqAt m c t ≤ freqAt m c u ∧
        freqAt m c u ≤ c.freq2.toNat) ∧
      (c.freq2.toNat ≤ c.freq1.toNat →
        (c.freq2.toNat : Int) ≤ freqAt m c u ∧ freqAt m c u ≤ freqAt m c t ∧
        freqAt m c t ≤ c.freq1.toNat)) ∧
    0 ≤ volAt m c t ∧ volAt m c t ≤ 32767

/-- The envelope at the markers (R111, R112): 0 at the start of an attack, the peak at the start of a
decay, the sustain volume through the sustain and at the start of a release. A phase of length zero is
skipped. -/
def Obligations.EnvelopeAtTheMarkers : Prop :=
  ∀ (m : FpFormat) (c : Channel), Ordered c →
    c.peakVolume.toNat ≤ 32767 → c.sustainVolume.toNat ≤ 32767 →
    (c.startTime.toNat < c.attackTime.toNat → volAt m c c.startTime = 0) ∧
    (c.attackTime.toNat < c.decayTime.toNat → volAt m c c.attackTime = c.peakVolume.toNat) ∧
    (c.decayTime.toNat < c.sustainTime.toNat → volAt m c c.decayTime = c.sustainVolume.toNat) ∧
    (c.sustainTime.toNat < c.releaseTime.toNat →
      volAt m c c.sustainTime = c.sustainVolume.toNat)

/-- The ladder and the shape of the envelope (R111, R114): in the attack the ramp from 0 to the peak,
rising; in the decay the ramp from the peak to the sustain volume, monotone; in the sustain the sustain
volume; in the release the ramp from it to 0, falling. -/
def Obligations.EnvelopeShape : Prop :=
  ∀ (m : FpFormat) (c : Channel) (x y : BitVec 64), Ordered c →
    c.peakVolume.toNat ≤ 32767 → c.sustainVolume.toNat ≤ 32767 → x.toNat ≤ y.toNat →
    (c.startTime.toNat ≤ x.toNat → y.toNat < c.attackTime.toNat →
      volAt m c x = ramp m 0 c.peakVolume.toNat x.toNat c.startTime.toNat c.attackTime.toNat ∧
      0 ≤ volAt m c x ∧ volAt m c x ≤ volAt m c y ∧ volAt m c y ≤ c.peakVolume.toNat) ∧
    (c.attackTime.toNat ≤ x.toNat → y.toNat < c.decayTime.toNat →
      volAt m c x =
        ramp m c.peakVolume.toNat c.sustainVolume.toNat x.toNat c.attackTime.toNat
          c.decayTime.toNat ∧
      (c.peakVolume.toNat ≤ c.sustainVolume.toNat →
        (c.peakVolume.toNat : Int) ≤ volAt m c x ∧ volAt m c x ≤ volAt m c y ∧
        volAt m c y ≤ c.sustainVolume.toNat) ∧
      (c.sustainVolume.toNat ≤ c.peakVolume.toNat →
        (c.sustainVolume.toNat : Int) ≤ volAt m c y ∧ volAt m c y ≤ volAt m c x ∧
        volAt m c x ≤ c.peakVolume.toNat)) ∧
    (c.decayTime.toNat ≤ x.toNat → y.toNat < c.sustainTime.toNat →
      volAt m c x = c.sustainVolume.toNat ∧ volAt m c y = c.sustainVolume.toNat) ∧
    (c.sustainTime.toNat ≤ x.toNat → y.toNat < c.releaseTime.toNat →
      volAt m c x =
        ramp m c.sustainVolume.toNat 0 x.toNat c.sustainTime.toNat c.releaseTime.toNat ∧
      0 ≤ volAt m c y ∧ volAt m c y ≤ volAt m c x ∧ volAt m c x ≤ c.sustainVolume.toNat)

/-! ## Oscillators -/

/-- ADVANCE (R120) has a result for every legal rate, frequency and phase: the phase plus the rounded
quotient of the frequency and the rate, after `k` subtractions of 1, `k` being the first number after
which it is below 1. The result is in [0, 1), and at frequency 0 it is the phase unchanged. -/
def Obligations.AdvanceWrapsIntoUnit : Prop :=
  ∀ (m : FpFormat) (sr : BitVec 32) (f : Int) (ph : Fp), LegalRate sr → LegalFreq f →
    tonalPhaseOk m ph = true →
    ∃ q k, advance m sr f ph = some q ∧ q = phaseAfter m sr f ph k ∧
      (∀ j : Nat, j < k → fle (fp m 1) (phaseAfter m sr f ph j) = true) ∧
      flt (phaseAfter m sr f ph k) (fp m 1) = true ∧ tonalPhaseOk m q = true ∧ (f = 0 → q = ph)

/-- The work bounds of R186: 66 passes of the phase wrap and 189403 passes of the noise loop always
suffice. -/
def Obligations.LoopBounds : Prop :=
  ∀ (m : FpFormat) (sr : BitVec 32) (f : Int), LegalRate sr → LegalFreq f →
    (∀ ph : Fp, tonalPhaseOk m ph = true →
      ∃ q, wrapLoop m 66 (fadd m ph (phaseInc m sr f)) = some q ∧ advance m sr f ph = some q) ∧
    (∀ g : NoiseGen, noisePhaseOk m g.phase = true →
      ∃ h, noiseLoop m 189403 { g with phase := fadd m g.phase (noiseInc m sr f) } = some h ∧
        noiseAdvance m sr f g = some h)

/-- POLYBLEP by its ladder (R123), for a sub-phase in [0, 1] and a non-negative increment: within one
increment after the start the curve `2t - t^2` at t = p / dp, else within one increment before the end
`1 - (2t - t^2)` at t = (p - (1 - dp)) / dp, else 1. So it is 0 at p = 0 with a positive increment, 1 at
p = dp where the windows do not overlap, 1 for an increment of 0, and always in [0, 1]. -/
def Obligations.PolyblepStaysInUnit : Prop :=
  ∀ (m : FpFormat) (p : Fp) (b : Nat), InUnit m p → representable m (.fin false b) = true →
    let dp := Fp.fin false b
    let far := fsub m (fp m 1) dp
    InUnit m (polyblep m p dp) ∧
    (flt p dp = true → polyblep m p dp = edgeCurve m (fdiv m p dp)) ∧
    (flt p dp = false → flt far p = true →
      polyblep m p dp = fsub m (fp m 1) (edgeCurve m (fdiv m (fsub m p far) dp))) ∧
    (flt p dp = false → flt far p = false → polyblep m p dp = fp m 1) ∧
    (0 < b → polyblep m (fp m 0) dp = fp m 0) ∧
    (fle dp far = true → polyblep m dp dp = fp m 1) ∧
    polyblep m p (.fin false 0) = fp m 1

/-- A pulse sample (R121, R122, R124): below the duty cycle `d` the volume times POLYBLEP of the phase and
increment rescaled by `d`, from it on minus the volume times POLYBLEP of both rescaled by `1 - d`,
truncated; it is within the volume. -/
def Obligations.PulseSampleWithinVolume : Prop :=
  ∀ (m : FpFormat) (sr : BitVec 32) (f v : Int) (d ph : Fp), LegalRate sr → LegalFreq f →
    0 ≤ v → v ≤ 32767 → DutyOk m d → tonalPhaseOk m ph = true →
    let inc := fdiv m (fp m f) (fp m sr.toNat)
    let low := fsub m (fp m 1) d
    phaseInc m sr f = inc ∧
    -v ≤ pulseSample m d ph inc v ∧ pulseSample m d ph inc v ≤ v ∧
    (flt ph d = true →
      pulseSample m d ph inc v =
        trunc m (fmul m (fp m v) (polyblep m (fdiv m ph d) (fdiv m inc d)))) ∧
    (flt ph d = false →
      pulseSample m d ph inc v =
        trunc m (fmul m (fp m (-v)) (polyblep m (fdiv m (fsub m ph d) low) (fdiv m inc low))))

/-- At frequency 0 the pulse is a constant +v below the duty cycle and -v from it on (R121, R122,
R123). -/
def Obligations.PulseHeldAtZeroFrequency : Prop :=
  ∀ (m : FpFormat) (sr : BitVec 32) (v : Int) (d ph : Fp), LegalRate sr → 0 ≤ v → v ≤ 32767 →
    DutyOk m d → tonalPhaseOk m ph = true →
    pulseSample m d ph (phaseInc m sr 0) v = if flt ph d then v else -v

/-- A triangle sample is the truncated product of the volume and 2 * |2 * phase - 1| - 1, each operation
rounded once (R125). It is within the volume, +v at phase 0, 0 at 1/4, -v at 1/2 and 0 at 3/4 (R126,
C2). -/
def Obligations.TriangleShape : Prop :=
  ∀ (m : FpFormat) (v : Int), 0 ≤ v → v ≤ 32767 →
    (∀ ph : Fp, tonalPhaseOk m ph = true →
      -v ≤ triangleSample m ph v ∧ triangleSample m ph v ≤ v ∧
      triangleSample m ph v =
        trunc m (fmul m (fp m v)
          (fsub m (fmul m (fp m 2) (fabs (fsub m (fmul m (fp m 2) ph) (fp m 1)))) (fp m 1)))) ∧
    triangleSample m (fp m 0) v = v ∧
    triangleSample m (fdiv m (fp m 1) (fp m 4)) v = 0 ∧
    triangleSample m (fdiv m (fp m 1) (fp m 2)) v = -v ∧
    triangleSample m (fdiv m (fp m 3) (fp m 4)) v = 0

/-- NOISE (R130, R132) has a result for every legal rate, frequency and accumulator. It makes `k` passes:
the accumulator is above 0 before each of them and not after the last, so k is 0 exactly when the
accumulator plus the increment is not above 0. The new seed is the old one after `k` LFSR steps (R131),
lastRandom is the sign of the new seed when k > 0 and the old one when k = 0, and the sample is -v, 0 or
+v by lastRandom. The accumulator ends in [-1, 0] (assumption 12), a nonzero seed stays nonzero (R34),
and frequency 0 takes no LFSR step. -/
def Obligations.NoiseSample : Prop :=
  ∀ (m : FpFormat) (sr : BitVec 32) (f v : Int) (g : NoiseGen), LegalRate sr → LegalFreq f →
    noisePhaseOk m g.phase = true →
    ∃ h x k, noise m sr f v g = some (h, x) ∧ noisePhaseOk m h.phase = true ∧
      (∀ j : Nat, j < k → flt (fp m 0) (accumulatorAfter m sr f g.phase j) = true) ∧
      flt (fp m 0) (accumulatorAfter m sr f g.phase k) = false ∧
      (k = 0 ↔ flt (fp m 0) (accumulatorAfter m sr f g.phase 0) = false) ∧
      h.phase = accumulatorAfter m sr f g.phase k ∧ h.seed = Nat.iterate lfsrNext k g.seed ∧
      (0 < k → h.lastRandom = lfsrSign h.seed) ∧ (k = 0 → h.lastRandom = g.lastRandom) ∧
      (h.lastRandom = .plusOne → x = v) ∧ (h.lastRandom = .minusOne → x = -v) ∧
      (h.lastRandom = .zero → x = 0 ∧ g.lastRandom = .zero) ∧
      (g.seed ≠ 0#16 → h.seed ≠ 0#16) ∧ (f = 0 → h = g)

/-- The LFSR map is the three shifts and exclusive ors of R131, the left shift kept to 16 bits. It is a
bijection on 16-bit values that fixes 0, and lastRandom is +1 exactly when the new seed is odd. -/
def Obligations.LfsrIsBijective : Prop :=
  (∀ x : BitVec 16,
    let a := x.toNat ^^^ (x.toNat / 2 ^ 7)
    let b := a ^^^ (a * 2 ^ 9 % 2 ^ 16)
    (lfsrNext x).toNat = b ^^^ (b / 2 ^ 13)) ∧
  (∀ x y : BitVec 16, lfsrNext x = lfsrNext y → x = y) ∧
  (∀ y : BitVec 16, ∃ x, lfsrNext x = y) ∧ lfsrNext 0#16 = 0#16 ∧
  (∀ (m : FpFormat) (g : NoiseGen),
    (noiseStep m g).lastRandom = .plusOne ↔ (noiseStep m g).seed.toNat % 2 = 1) ∧
  ∀ (m : FpFormat) (g : NoiseGen),
    (noiseStep m g).lastRandom = .minusOne ↔ (noiseStep m g).seed.toNat % 2 = 0

/-- Every nonzero seed lies on one cycle of length 65535 (R131): the sequence from seed 1 first returns
to 1 after 65535 steps and passes through every nonzero seed. -/
def Obligations.LfsrHasFullPeriod : Prop :=
  Nat.iterate lfsrNext 65535 1#16 = 1#16 ∧
  (∀ k : Nat, 0 < k → k < 65535 → Nat.iterate lfsrNext k 1#16 ≠ 1#16) ∧
  ∀ x : BitVec 16, x ≠ 0#16 → ∃ k, k < 65535 ∧ Nat.iterate lfsrNext k 1#16 = x

/-! ## Output -/

/-- The output as samples and bytes (R11, R52, R145): two samples a frame, left first, two bytes a
sample, whose value the two bytes give in the order OUT_ENDIAN says. -/
def Obligations.OutputSerialisation : Prop :=
  (∀ (s : State) (n : Nat) (f : Frame), s.frames[n]? = some f →
    (outputSamples s)[2 * n]? = some f.left ∧ (outputSamples s)[2 * n + 1]? = some f.right) ∧
  (∀ s : State, (outputSamples s).length = 2 * s.frames.length ∧
    (outputBytes s).length = 4 * s.frames.length) ∧
  ∀ (s : State) (n : Nat) (x : BitVec 16), (outputSamples s)[n]? = some x →
    ∃ lo hi : BitVec 8, x.toNat = lo.toNat + 2 ^ 8 * hi.toNat ∧
      (outputBytes s)[2 * n]? = some (if s.config.outEndian = .little then lo else hi) ∧
      (outputBytes s)[2 * n + 1]? = some (if s.config.outEndian = .little then hi else lo)

/-! ## What a TICK writes -/

/-- What a TICK leaves in the generators: each sounding tonal channel's phase is ADVANCE of the old one
with the channel's frequency at the sample time before the TICK (R120, R144), and the phase, seed and
lastRandom of a sounding noise channel are those of NOISE with its frequency (R130, R144). A channel that
does not sound is held (R140). -/
def Obligations.TickAdvancesSoundingGenerators : Prop :=
  ∀ (w0 w1 w2 w3 : Word) (s t : State), exec (.tick w0 w1 w2 w3) s = .next t →
    (∀ i : Chan, i ≠ .noise →
      (Sounds s i →
        advance s.config.fpFormat s.cfgSR (freqAt s.config.fpFormat (chan s i) s.time)
          (chan s i).phase = some (chan t i).phase) ∧
      (¬ Sounds s i → (chan t i).phase = (chan s i).phase)) ∧
    (Sounds s .noise →
      noiseAdvance s.config.fpFormat s.cfgSR (freqAt s.config.fpFormat (chan s .noise) s.time)
        (noiseGen s) = some (noiseGen t)) ∧
    (¬ Sounds s .noise → noiseGen t = noiseGen s)

/-- TICK as R144 writes it: refused before INIT, then refused at the top of time, and in every other
legal state it answers exactly the state with the time advanced by 1, the mixed frame appended, the
phases and the noise generator of the sounding channels advanced, and nothing else changed. That a legal
state's loops end, so that there is a next state, rests on assumption 8. -/
def Obligations.TickAnswersExactly : Prop :=
  ∀ (w0 w1 w2 w3 : Word) (s : State),
    (s.inited = false →
      exec (.tick w0 w1 w2 w3) s = .refused (.notInitialised 0#2 w0 w1 w2 w3)) ∧
    (s.inited = true → s.time.toNat = 2 ^ 64 - 1 →
      exec (.tick w0 w1 w2 w3) s = .refused (.timeOverflow 0#2)) ∧
    (LegalState s → s.inited = true → s.time.toNat < 2 ^ 64 - 1 →
      ∃ ph0 ph1 ph2 g l r, PhaseLeft s .p0 ph0 ∧ PhaseLeft s .p1 ph1 ∧ PhaseLeft s .tri ph2 ∧
        NoiseLeft s g ∧ BitVec.toInt l = mixedSide s 2#2 ∧ BitVec.toInt r = mixedSide s 1#2 ∧
        exec (.tick w0 w1 w2 w3) s =
          .next { s with time := s.time + 1#64
                         frames := s.frames ++ [{ left := l, right := r }]
                         ch0 := { s.ch0 with phase := ph0 }
                         ch1 := { s.ch1 with phase := ph1 }
                         ch2 := { s.ch2 with phase := ph2 }
                         ch3 := { s.ch3 with phase := g.phase }
                         seed := g.seed
                         lastRandom := g.lastRandom })

/-- Where R30's interval (-1, 0] holds for the noise accumulator, and exactly where R130's arithmetic
leaves it (assumption 12): the accumulator ends in [-1, 0], and it ends at -1 only when it was -1 and the
increment is lost in rounding, or when the incremented accumulator is positive and at most half a unit in
the last place below 1, so that the subtraction of 1 rounds to -1. -/
def Obligations.NoisePhaseLeavesR30OnlyByRounding : Prop :=
  ∀ (m : FpFormat) (sr : BitVec 32) (f : Int) (g h : NoiseGen), LegalRate sr → LegalFreq f →
    noisePhaseOk m g.phase = true → noiseAdvance m sr f g = some h →
    noisePhaseOk m h.phase = true ∧
    (h.phase = .fin true (oneMag m) ↔
      accumulatorAfter m sr f g.phase 0 = .fin true (oneMag m) ∨
      ∃ a, 0 < a ∧ a * 2 ^ (prec m + 1) ≤ oneMag m ∧
        accumulatorAfter m sr f g.phase 0 = .fin false a) ∧
    (accumulatorAfter m sr f g.phase 0 = .fin true (oneMag m) → g.phase = .fin true (oneMag m))

/-- R30's interval over the whole machine, with its one exception (assumption 12): from a legal state
whose noise accumulator is above -1, every step leaves it above -1, but a TICK with channel 3 sounding
and the incremented accumulator positive and at most half a unit in the last place below 1. -/
def Obligations.NoisePhaseStaysInR30IntervalOtherwise : Prop :=
  ∀ s t : State, LegalState s → step s = .next t →
    s.ch3.phase ≠ .fin true (oneMag s.config.fpFormat) →
    t.ch3.phase = .fin true (oneMag t.config.fpFormat) →
    (∃ w rest, s.ops = w :: rest ∧ opField w = 0#2) ∧ Sounds s .noise ∧
    ∃ a, 0 < a ∧ a * 2 ^ (prec s.config.fpFormat + 1) ≤ oneMag s.config.fpFormat ∧
      accumulatorAfter s.config.fpFormat s.cfgSR (freqIn s .noise) s.ch3.phase 0 = .fin false a
end

