-- ==== Sys2Proof/Laws/Float.lean ====
section
/-!
SUPPORT. The rounding of Machine/Float.lean, once: it is monotone, it keeps what already fits, and its
result always fits; then what each primitive of R15 is on finite values.
-/

namespace Sys2Proof.Machine

/-- A magnitude fits in `p` significant bits. -/
abbrev FitsBits (p k : Nat) : Prop := 2 ^ excessBits p k ∣ k

theorem roundDiv_le {num den k : Nat} (h : num ≤ k * den) (hd : 0 < den) :
    roundDiv num den ≤ k := by
  have hm := Nat.div_add_mod num den
  have hlt := Nat.mod_lt num hd
  have hq : num / den ≤ k := by
    have := Nat.div_le_div_right (c := den) h
    rwa [Nat.mul_div_cancel _ hd] at this
  unfold roundDiv
  simp only
  split
  · rcases Nat.lt_or_ge (num / den) k with hk | hk
    · omega
    · have hqk : num / den = k := le_antisymm hq hk
      rw [hqk, Nat.mul_comm] at hm
      omega
  · exact hq

theorem le_roundDiv {num den k : Nat} (h : k * den ≤ num) (hd : 0 < den) :
    k ≤ roundDiv num den := by
  have hq : k ≤ num / den := (Nat.le_div_iff_mul_le hd).2 h
  unfold roundDiv
  simp only
  split <;> omega

theorem roundDiv_exact {den : Nat} (k : Nat) (hd : 0 < den) : roundDiv (k * den) den = k :=
  le_antisymm (roundDiv_le le_rfl hd) (le_roundDiv le_rfl hd)

theorem roundDiv_mono {a b den : Nat} (h : a ≤ b) :
    roundDiv a den ≤ roundDiv b den := by
  have hq : a / den ≤ b / den := Nat.div_le_div_right h
  have ha := Nat.div_add_mod a den
  have hb := Nat.div_add_mod b den
  rcases Nat.lt_or_ge (a / den) (b / den) with hlt | hge
  · have : roundDiv a den ≤ a / den + 1 := by
      unfold roundDiv; simp only; split <;> omega
    have : b / den ≤ roundDiv b den := by
      unfold roundDiv; simp only; split <;> omega
    omega
  · have heq : a / den = b / den := le_antisymm hq hge
    rw [heq] at ha
    have hmod : a % den ≤ b % den := by omega
    unfold roundDiv
    simp only [heq]
    split <;> split <;> omega

/-- Below `2 ^ p` no bit is lost. -/
theorem excessBits_of_lt {p q : Nat} (hp : 1 ≤ p) (h : q < 2 ^ p) : excessBits p q = 0 := by
  unfold excessBits
  rcases Nat.eq_zero_or_pos q with rfl | hq
  · simp only [Nat.log2_zero]
    omega
  · have := (Nat.log2_lt hq.ne').2 h
    omega

/-- Where bits are lost, the magnitude has exactly `p + excessBits` bits. -/
theorem excessBits_bounds {p q : Nat} (hp : 1 ≤ p) (h : 0 < excessBits p q) :
    2 ^ (p - 1) * 2 ^ excessBits p q ≤ q ∧ q < 2 ^ p * 2 ^ excessBits p q := by
  have hq : q ≠ 0 := by
    rintro rfl
    rw [excessBits_of_lt hp (by positivity)] at h
    exact absurd h (lt_irrefl 0)
  unfold excessBits at h ⊢
  have e : p + (Nat.log2 q + 1 - p) = Nat.log2 q + 1 := by omega
  have e' : p - 1 + (Nat.log2 q + 1 - p) = Nat.log2 q := by omega
  rw [← Nat.pow_add, ← Nat.pow_add, e, e']
  exact ⟨Nat.log2_self_le hq, Nat.lt_log2_self⟩

theorem lt_two_pow_excess {p : Nat} (q : Nat) (hp : 1 ≤ p) : q < 2 ^ p * 2 ^ excessBits p q := by
  rcases Nat.eq_zero_or_pos (excessBits p q) with h | h
  · rw [h]
    unfold excessBits at h
    simpa using lt_of_lt_of_le Nat.lt_log2_self
      (Nat.pow_le_pow_right (n := 2) (by norm_num) (show Nat.log2 q + 1 ≤ p by omega))
  · exact (excessBits_bounds hp h).2

/-- The number of lost bits is determined by the binade. -/
theorem excessBits_eq {p e q : Nat} (hp : 1 ≤ p) (h1 : 2 ^ (p - 1) * 2 ^ e ≤ q)
    (h2 : q < 2 ^ p * 2 ^ e) : excessBits p q = e := by
  unfold excessBits
  rw [← Nat.pow_add] at h1 h2
  have hq : q ≠ 0 := by
    rintro rfl
    exact absurd h1 (by simp)
  have a := (Nat.le_log2 hq).2 h1
  have b := (Nat.log2_lt hq).2 h2
  omega

theorem excessBits_mono {p a b : Nat} (h : a ≤ b) : excessBits p a ≤ excessBits p b := by
  unfold excessBits
  have : Nat.log2 a ≤ Nat.log2 b := by
    rw [Nat.log2_eq_log_two, Nat.log2_eq_log_two]
    exact Nat.log_mono_right h
  omega

/-- A magnitude below `2 ^ p` fits. -/
theorem fitsBits_of_lt {p k : Nat} (hp : 1 ≤ p) (h : k < 2 ^ p) : FitsBits p k := by
  unfold FitsBits
  rw [excessBits_of_lt hp h]
  exact one_dvd k

/-- A magnitude below `2 ^ p` times a power of two fits. -/
theorem fitsBits_mul_pow {p k e : Nat} (hp : 1 ≤ p) (h : k ≤ 2 ^ p) : FitsBits p (k * 2 ^ e) := by
  rcases Nat.eq_zero_or_pos k with rfl | hk
  · exact fitsBits_of_lt hp (by simp)
  unfold FitsBits
  have hle : k * 2 ^ e ≤ 2 ^ p * 2 ^ e := Nat.mul_le_mul_right _ h
  rcases Nat.lt_or_ge k (2 ^ p) with hlt | hge
  · have : excessBits p (k * 2 ^ e) ≤ e := by
      have hpos : k * 2 ^ e ≠ 0 := (Nat.mul_pos hk (by positivity)).ne'
      have h3 : k * 2 ^ e < 2 ^ (p + e) := by
        rw [Nat.pow_add]
        exact Nat.mul_lt_mul_of_pos_right hlt (by positivity)
      have := (Nat.log2_lt hpos).2 h3
      unfold excessBits
      omega
    exact Dvd.dvd.mul_left (pow_dvd_pow 2 this) k
  · have hk2 : k = 2 ^ p := le_antisymm h hge
    subst hk2
    rw [← Nat.pow_add]
    refine pow_dvd_pow 2 ?_
    unfold excessBits
    rw [Nat.log2_two_pow]
    omega

section rounding
variable {p num den : Nat} (hp : 1 ≤ p) (hd : 0 < den)
include hp hd

/-- The quotient that `roundMag` rounds has at most `p` bits. -/
theorem roundMag_quot_le :
    roundDiv num (den * 2 ^ excessBits p (num / den)) ≤ 2 ^ p := by
  have h1 := lt_two_pow_excess (num / den) hp
  generalize excessBits p (num / den) = e at *
  refine roundDiv_le ?_ (Nat.mul_pos hd (by positivity))
  have h2 := (Nat.div_lt_iff_lt_mul hd).1 h1
  nlinarith

/-- The quotient that `roundMag` rounds has exactly `p` bits where bits are lost. -/
theorem le_roundMag_quot (h : 0 < excessBits p (num / den)) :
    2 ^ (p - 1) ≤ roundDiv num (den * 2 ^ excessBits p (num / den)) := by
  have h1 := (excessBits_bounds hp h).1
  generalize excessBits p (num / den) = e at *
  refine le_roundDiv ?_ (Nat.mul_pos hd (by positivity))
  have h2 := (Nat.le_div_iff_mul_le hd).1 h1
  nlinarith

/-- A rounded magnitude fits in `p` bits. -/
theorem roundMag_fits : FitsBits p (roundMag p num den) :=
  fitsBits_mul_pow hp (roundMag_quot_le hp hd)

omit hp in
/-- Rounding keeps a magnitude that fits. -/
theorem roundMag_exact {k : Nat} (hk : FitsBits p k) :
    roundMag p (k * den) den = k := by
  obtain ⟨j, hj⟩ := hk
  unfold roundMag
  rw [Nat.mul_div_cancel _ hd]
  generalize excessBits p k = e at *
  have h : k * den = j * (den * 2 ^ e) := by rw [hj]; ring
  rw [h, roundDiv_exact _ (Nat.mul_pos hd (by positivity)), hj]
  ring

/-- Rounding is monotone in the rounded quantity. -/
theorem roundMag_mono {num' : Nat} (h : num ≤ num') :
    roundMag p num den ≤ roundMag p num' den := by
  have hq : num / den ≤ num' / den := Nat.div_le_div_right h
  rcases (excessBits_mono (p := p) hq).lt_or_eq with hlt | heq
  · have h1 := roundMag_quot_le (num := num) hp hd
    have h2 := le_roundMag_quot (num := num') hp hd (by omega)
    unfold roundMag
    generalize excessBits p (num / den) = e at *
    generalize excessBits p (num' / den) = e' at *
    obtain ⟨c, rfl⟩ : ∃ c, e' = e + 1 + c := ⟨e' - (e + 1), by omega⟩
    calc roundDiv num (den * 2 ^ e) * 2 ^ e ≤ 2 ^ p * 2 ^ e := Nat.mul_le_mul_right _ h1
      _ = 2 ^ (p - 1) * 2 ^ (e + 1) := by
          rw [← Nat.pow_add, ← Nat.pow_add]; congr 1; omega
      _ ≤ 2 ^ (p - 1) * 2 ^ (e + 1 + c) :=
          Nat.mul_le_mul_left _ (Nat.pow_le_pow_right (by norm_num) (by omega))
      _ ≤ _ := Nat.mul_le_mul_right _ h2
  · unfold roundMag
    rw [heq]
    exact Nat.mul_le_mul_right _ (roundDiv_mono h)

/-- A fitting magnitude above the exact quotient is above the rounded one. -/
theorem roundMag_le {k : Nat} (hk : FitsBits p k) (h : num ≤ k * den) : roundMag p num den ≤ k := by
  have := roundMag_mono hp hd h
  rwa [roundMag_exact hd hk] at this

/-- A fitting magnitude below the exact quotient is below the rounded one. -/
theorem le_roundMag {k : Nat} (hk : FitsBits p k) (h : k * den ≤ num) : k ≤ roundMag p num den := by
  have := roundMag_mono hp hd h
  rwa [roundMag_exact hd hk] at this

end rounding

section formats
variable (m : FpFormat)

theorem one_le_prec : 1 ≤ prec m := by cases m <;> decide

theorem prec_ge_24 : 24 ≤ prec m := by cases m <;> decide

theorem unitExp_ge_149 : 149 ≤ unitExp m := by cases m <;> decide

theorem oneMag_pos : 0 < oneMag m := Nat.two_pow_pos _

theorem topExp_ge_128 : 128 ≤ topExp m := by cases m <;> decide

/-- A power of two of at most 127 times 1.0 is below the finite limit. -/
theorem two_pow_mul_oneMag_lt {e : Nat} (he : e < 128) : 2 ^ e * oneMag m < limitMag m := by
  unfold oneMag limitMag
  rw [← Nat.pow_add]
  exact Nat.pow_lt_pow_right (by norm_num) (by have := topExp_ge_128 m; omega)

/-- An integer below 2^24 fits every format (R80: it is exact). -/
theorem fitsBits_int {k : Nat} (h : k ≤ 2 ^ 24) : FitsBits (prec m) (k * oneMag m) :=
  fitsBits_mul_pow (one_le_prec m)
    (le_trans h (Nat.pow_le_pow_right (by norm_num) (prec_ge_24 m)))

/-- A rounding that stays below the finite limit gives a finite value. -/
theorem roundTo_fin {neg : Bool} {num den : Nat}
    (h : roundMag (prec m) num den < limitMag m) :
    roundTo m neg num den = .fin neg (roundMag (prec m) num den) := by
  simp [roundTo, packMag, Nat.not_le.2 h]

/-- A magnitude that fits and is finite rounds to itself. -/
theorem roundTo_exact {neg : Bool} {k den : Nat} (hd : 0 < den) (hk : FitsBits (prec m) k)
    (hl : k < limitMag m) : roundTo m neg (k * den) den = .fin neg k := by
  rw [roundTo_fin, roundMag_exact hd hk]
  rwa [roundMag_exact hd hk]

/-- The result of a rounding belongs to the format. -/
theorem representable_roundTo (neg : Bool) {num den : Nat} (hd : 0 < den) :
    representable m (roundTo m neg num den) = true := by
  unfold roundTo packMag
  split
  · rfl
  · rename_i h
    have := roundMag_fits (num := num) (one_le_prec m) hd
    simp [representable, Nat.mod_eq_zero_of_dvd this, Nat.not_le.1 h]

/-- `fp` of an integer of magnitude at most 2^24 is exact (R80). -/
theorem fp_small {n : Int} (h : n.natAbs ≤ 2 ^ 24) :
    fp m n = .fin (decide (n < 0)) (n.natAbs * oneMag m) := by
  unfold fp
  have hl : n.natAbs * oneMag m < limitMag m :=
    lt_of_le_of_lt (Nat.mul_le_mul_right _ h) (two_pow_mul_oneMag_lt m (by norm_num))
  simpa using roundTo_exact m (neg := decide (n < 0)) (den := 1) one_pos (fitsBits_int m h) hl

theorem fp_zero : fp m 0 = fpZero := by
  rw [fp_small m (by norm_num)]
  simp [fpZero]

end formats

section primitives
variable (m : FpFormat) (n1 n2 : Bool) (a b : Nat)

@[simp] theorem fneg_fin : fneg (.fin n1 a) = .fin (!n1) a := rfl
@[simp] theorem fabs_fin : fabs (.fin n1 a) = .fin false a := rfl
@[simp] theorem fadd_fin : fadd m (.fin n1 a) (.fin n2 b) = faddFin m n1 a n2 b := rfl
@[simp] theorem fsub_fin : fsub m (.fin n1 a) (.fin n2 b) = faddFin m n1 a (!n2) b := rfl
@[simp] theorem fmul_fin :
    fmul m (.fin n1 a) (.fin n2 b) = roundTo m (n1 != n2) (a * b) (oneMag m) := rfl
@[simp] theorem trunc_fin : trunc m (.fin n1 a) = signedMag n1 (a / oneMag m) := rfl
@[simp] theorem flt_fin :
    flt (.fin n1 a) (.fin n2 b) = decide (signedMag n1 a < signedMag n2 b) := rfl
@[simp] theorem fle_fin :
    fle (.fin n1 a) (.fin n2 b) = decide (signedMag n1 a ≤ signedMag n2 b) := rfl
@[simp] theorem signedMag_false : signedMag false a = a := rfl
@[simp] theorem signedMag_true : signedMag true a = -(a : Int) := rfl

theorem fdiv_fin {b : Nat} (h : b ≠ 0) :
    fdiv m (.fin n1 a) (.fin n2 b) = roundTo m (n1 != n2) (a * oneMag m) b := by
  simp [fdiv, h]

/-- Signs agree: the magnitudes add. -/
theorem faddFin_same : faddFin m n1 a n1 b = roundTo m n1 (a + b) 1 := by
  simp [faddFin]

/-- Signs differ and the first magnitude is larger: the difference keeps its sign. -/
theorem faddFin_gt {n1 n2 : Bool} (hn : n1 ≠ n2) {a b : Nat} (h : b < a) :
    faddFin m n1 a n2 b = roundTo m n1 (a - b) 1 := by
  simp [faddFin, hn, h]

/-- Signs differ and the second magnitude is larger: the difference takes its sign. -/
theorem faddFin_lt {n1 n2 : Bool} (hn : n1 ≠ n2) {a b : Nat} (h : a < b) :
    faddFin m n1 a n2 b = roundTo m n2 (b - a) 1 := by
  simp [faddFin, hn, h, Nat.lt_asymm h]

/-- Equal magnitudes of opposite signs sum to +0. -/
theorem faddFin_cancel {n1 n2 : Bool} (hn : n1 ≠ n2) : faddFin m n1 a n2 a = fpZero := by
  simp [faddFin, hn, fpZero]

/-- `fsub(ph, 1)` is exact for a value of the format from 1 up to 2^24 (R120). -/
theorem fsub_one_exact {k : Nat} (h1 : oneMag m ≤ k) (h2 : k < 2 ^ 24 * oneMag m)
    (hk : FitsBits (prec m) k) : fsub m (.fin false k) (fpOne m) = .fin false (k - oneMag m) := by
  have hp := one_le_prec m
  rcases h1.eq_or_lt with rfl | hlt
  · simp [fpOne, faddFin_cancel, fpZero]
  have hle : excessBits (prec m) k ≤ unitExp m := by
    have h3 : k < 2 ^ (24 + unitExp m) := by
      rw [Nat.pow_add]
      exact h2
    have h4 : k ≠ 0 := by have := oneMag_pos m; omega
    have h5 := (Nat.log2_lt h4).2 h3
    have h6 := prec_ge_24 m
    unfold excessBits
    omega
  have hfit : FitsBits (prec m) (k - oneMag m) := by
    refine dvd_trans (pow_dvd_pow 2 (excessBits_mono (Nat.sub_le k _))) ?_
    exact Nat.dvd_sub hk (pow_dvd_pow 2 hle)
  have hl : k - oneMag m < limitMag m :=
    lt_of_le_of_lt (le_trans (Nat.sub_le _ _) h2.le) (two_pow_mul_oneMag_lt m (by norm_num))
  have h := roundTo_exact m (neg := false) (den := 1) one_pos hfit hl
  simpa [fpOne, faddFin_gt m (show false ≠ true by decide) hlt] using h

end primitives

end Sys2Proof.Machine
end

