-- ==== Sys2Proof/Laws/State.lean ====
section
/-!
SUPPORT. One lemma per field per update of the state, so that no proof unfolds a record update.
-/

namespace Sys2Proof.Machine

section pushOperationFields
variable (w : OpBits) (s : State)

@[simp] theorem pushOperation_config : (pushOperation w s).config = s.config := rfl
@[simp] theorem pushOperation_ops : (pushOperation w s).ops = w :: s.ops := rfl
@[simp] theorem pushOperation_frames : (pushOperation w s).frames = s.frames := rfl
@[simp] theorem pushOperation_cfgSR : (pushOperation w s).cfgSR = s.cfgSR := rfl
@[simp] theorem pushOperation_cfgMAXV : (pushOperation w s).cfgMAXV = s.cfgMAXV := rfl
@[simp] theorem pushOperation_cfgMAXVTRI : (pushOperation w s).cfgMAXVTRI = s.cfgMAXVTRI := rfl
@[simp] theorem pushOperation_time : (pushOperation w s).time = s.time := rfl
@[simp] theorem pushOperation_inited : (pushOperation w s).inited = s.inited := rfl
@[simp] theorem pushOperation_ch0 : (pushOperation w s).ch0 = s.ch0 := rfl
@[simp] theorem pushOperation_ch1 : (pushOperation w s).ch1 = s.ch1 := rfl
@[simp] theorem pushOperation_ch2 : (pushOperation w s).ch2 = s.ch2 := rfl
@[simp] theorem pushOperation_ch3 : (pushOperation w s).ch3 = s.ch3 := rfl
@[simp] theorem pushOperation_duty0 : (pushOperation w s).duty0 = s.duty0 := rfl
@[simp] theorem pushOperation_duty1 : (pushOperation w s).duty1 = s.duty1 := rfl
@[simp] theorem pushOperation_seed : (pushOperation w s).seed = s.seed := rfl
@[simp] theorem pushOperation_lastRandom : (pushOperation w s).lastRandom = s.lastRandom := rfl
@[simp] theorem chan_pushOperation (i : Chan) : chan (pushOperation w s) i = chan s i := by cases i <;> rfl

end pushOperationFields

section emitFields
variable (f : Frame) (s : State)

@[simp] theorem emit_config : (emit f s).config = s.config := rfl
@[simp] theorem emit_ops : (emit f s).ops = s.ops := rfl
@[simp] theorem emit_frames : (emit f s).frames = s.frames ++ [f] := rfl
@[simp] theorem emit_cfgSR : (emit f s).cfgSR = s.cfgSR := rfl
@[simp] theorem emit_cfgMAXV : (emit f s).cfgMAXV = s.cfgMAXV := rfl
@[simp] theorem emit_cfgMAXVTRI : (emit f s).cfgMAXVTRI = s.cfgMAXVTRI := rfl
@[simp] theorem emit_time : (emit f s).time = s.time := rfl
@[simp] theorem emit_inited : (emit f s).inited = s.inited := rfl
@[simp] theorem emit_ch0 : (emit f s).ch0 = s.ch0 := rfl
@[simp] theorem emit_ch1 : (emit f s).ch1 = s.ch1 := rfl
@[simp] theorem emit_ch2 : (emit f s).ch2 = s.ch2 := rfl
@[simp] theorem emit_ch3 : (emit f s).ch3 = s.ch3 := rfl
@[simp] theorem emit_duty0 : (emit f s).duty0 = s.duty0 := rfl
@[simp] theorem emit_duty1 : (emit f s).duty1 = s.duty1 := rfl
@[simp] theorem emit_seed : (emit f s).seed = s.seed := rfl
@[simp] theorem emit_lastRandom : (emit f s).lastRandom = s.lastRandom := rfl
@[simp] theorem chan_emit (i : Chan) : chan (emit f s) i = chan s i := by cases i <;> rfl

end emitFields

section setTimeFields
variable (t : BitVec 64) (s : State)

@[simp] theorem setTime_config : (setTime t s).config = s.config := rfl
@[simp] theorem setTime_ops : (setTime t s).ops = s.ops := rfl
@[simp] theorem setTime_frames : (setTime t s).frames = s.frames := rfl
@[simp] theorem setTime_cfgSR : (setTime t s).cfgSR = s.cfgSR := rfl
@[simp] theorem setTime_cfgMAXV : (setTime t s).cfgMAXV = s.cfgMAXV := rfl
@[simp] theorem setTime_cfgMAXVTRI : (setTime t s).cfgMAXVTRI = s.cfgMAXVTRI := rfl
@[simp] theorem setTime_time : (setTime t s).time = t := rfl
@[simp] theorem setTime_inited : (setTime t s).inited = s.inited := rfl
@[simp] theorem setTime_ch0 : (setTime t s).ch0 = s.ch0 := rfl
@[simp] theorem setTime_ch1 : (setTime t s).ch1 = s.ch1 := rfl
@[simp] theorem setTime_ch2 : (setTime t s).ch2 = s.ch2 := rfl
@[simp] theorem setTime_ch3 : (setTime t s).ch3 = s.ch3 := rfl
@[simp] theorem setTime_duty0 : (setTime t s).duty0 = s.duty0 := rfl
@[simp] theorem setTime_duty1 : (setTime t s).duty1 = s.duty1 := rfl
@[simp] theorem setTime_seed : (setTime t s).seed = s.seed := rfl
@[simp] theorem setTime_lastRandom : (setTime t s).lastRandom = s.lastRandom := rfl
@[simp] theorem chan_setTime (i : Chan) : chan (setTime t s) i = chan s i := by cases i <;> rfl

end setTimeFields

section setChanFields
variable (i : Chan) (v : Channel) (s : State)

@[simp] theorem setChan_config : (setChan i v s).config = s.config := by cases i <;> rfl
@[simp] theorem setChan_ops : (setChan i v s).ops = s.ops := by cases i <;> rfl
@[simp] theorem setChan_frames : (setChan i v s).frames = s.frames := by cases i <;> rfl
@[simp] theorem setChan_cfgSR : (setChan i v s).cfgSR = s.cfgSR := by cases i <;> rfl
@[simp] theorem setChan_cfgMAXV : (setChan i v s).cfgMAXV = s.cfgMAXV := by cases i <;> rfl
@[simp] theorem setChan_cfgMAXVTRI : (setChan i v s).cfgMAXVTRI = s.cfgMAXVTRI := by cases i <;> rfl
@[simp] theorem setChan_time : (setChan i v s).time = s.time := by cases i <;> rfl
@[simp] theorem setChan_inited : (setChan i v s).inited = s.inited := by cases i <;> rfl
@[simp] theorem setChan_duty0 : (setChan i v s).duty0 = s.duty0 := by cases i <;> rfl
@[simp] theorem setChan_duty1 : (setChan i v s).duty1 = s.duty1 := by cases i <;> rfl
@[simp] theorem setChan_seed : (setChan i v s).seed = s.seed := by cases i <;> rfl
@[simp] theorem setChan_lastRandom : (setChan i v s).lastRandom = s.lastRandom := by cases i <;> rfl

/-- The written record reads back. -/
@[simp] theorem chan_setChan_self : chan (setChan i v s) i = v := by cases i <;> rfl

/-- Every other record is left alone. -/
@[simp] theorem chan_setChan_ne {j : Chan} (h : j ≠ i) : chan (setChan i v s) j = chan s j := by
  cases i <;> cases j <;> first | rfl | exact absurd rfl h

end setChanFields

section setPhaseFields
variable (i : Chan) (p : Fp) (s : State)

@[simp] theorem setPhase_config : (setPhase i p s).config = s.config := by cases i <;> rfl
@[simp] theorem setPhase_ops : (setPhase i p s).ops = s.ops := by cases i <;> rfl
@[simp] theorem setPhase_frames : (setPhase i p s).frames = s.frames := by cases i <;> rfl
@[simp] theorem setPhase_cfgSR : (setPhase i p s).cfgSR = s.cfgSR := by cases i <;> rfl
@[simp] theorem setPhase_cfgMAXV : (setPhase i p s).cfgMAXV = s.cfgMAXV := by cases i <;> rfl
@[simp] theorem setPhase_cfgMAXVTRI : (setPhase i p s).cfgMAXVTRI = s.cfgMAXVTRI := by cases i <;> rfl
@[simp] theorem setPhase_time : (setPhase i p s).time = s.time := by cases i <;> rfl
@[simp] theorem setPhase_inited : (setPhase i p s).inited = s.inited := by cases i <;> rfl
@[simp] theorem setPhase_duty0 : (setPhase i p s).duty0 = s.duty0 := by cases i <;> rfl
@[simp] theorem setPhase_duty1 : (setPhase i p s).duty1 = s.duty1 := by cases i <;> rfl
@[simp] theorem setPhase_seed : (setPhase i p s).seed = s.seed := by cases i <;> rfl
@[simp] theorem setPhase_lastRandom : (setPhase i p s).lastRandom = s.lastRandom := by cases i <;> rfl
@[simp] theorem chan_setPhase_self : chan (setPhase i p s) i = { chan s i with phase := p } := by
  simp [setPhase]
@[simp] theorem chan_setPhase_ne {j : Chan} (h : j ≠ i) : chan (setPhase i p s) j = chan s j := by
  simp [setPhase, h]

end setPhaseFields

section setDutyFields
variable (i : Chan) (d : Fp) (s : State)

@[simp] theorem setDuty_config : (setDuty i d s).config = s.config := by cases i <;> rfl
@[simp] theorem setDuty_ops : (setDuty i d s).ops = s.ops := by cases i <;> rfl
@[simp] theorem setDuty_frames : (setDuty i d s).frames = s.frames := by cases i <;> rfl
@[simp] theorem setDuty_cfgSR : (setDuty i d s).cfgSR = s.cfgSR := by cases i <;> rfl
@[simp] theorem setDuty_cfgMAXV : (setDuty i d s).cfgMAXV = s.cfgMAXV := by cases i <;> rfl
@[simp] theorem setDuty_cfgMAXVTRI : (setDuty i d s).cfgMAXVTRI = s.cfgMAXVTRI := by cases i <;> rfl
@[simp] theorem setDuty_time : (setDuty i d s).time = s.time := by cases i <;> rfl
@[simp] theorem setDuty_inited : (setDuty i d s).inited = s.inited := by cases i <;> rfl
@[simp] theorem setDuty_ch0 : (setDuty i d s).ch0 = s.ch0 := by cases i <;> rfl
@[simp] theorem setDuty_ch1 : (setDuty i d s).ch1 = s.ch1 := by cases i <;> rfl
@[simp] theorem setDuty_ch2 : (setDuty i d s).ch2 = s.ch2 := by cases i <;> rfl
@[simp] theorem setDuty_ch3 : (setDuty i d s).ch3 = s.ch3 := by cases i <;> rfl
@[simp] theorem setDuty_seed : (setDuty i d s).seed = s.seed := by cases i <;> rfl
@[simp] theorem setDuty_lastRandom : (setDuty i d s).lastRandom = s.lastRandom := by cases i <;> rfl
@[simp] theorem chan_setDuty (j : Chan) : chan (setDuty i d s) j = chan s j := by cases i <;> cases j <;> rfl
@[simp] theorem setDuty_duty0 : (setDuty i d s).duty0 = if i = .p0 then d else s.duty0 := by cases i <;> rfl
@[simp] theorem setDuty_duty1 : (setDuty i d s).duty1 = if i = .p1 then d else s.duty1 := by cases i <;> rfl

end setDutyFields

section setNoiseGenFields
variable (g : NoiseGen) (s : State)

@[simp] theorem setNoiseGen_config : (setNoiseGen g s).config = s.config := rfl
@[simp] theorem setNoiseGen_ops : (setNoiseGen g s).ops = s.ops := rfl
@[simp] theorem setNoiseGen_frames : (setNoiseGen g s).frames = s.frames := rfl
@[simp] theorem setNoiseGen_cfgSR : (setNoiseGen g s).cfgSR = s.cfgSR := rfl
@[simp] theorem setNoiseGen_cfgMAXV : (setNoiseGen g s).cfgMAXV = s.cfgMAXV := rfl
@[simp] theorem setNoiseGen_cfgMAXVTRI : (setNoiseGen g s).cfgMAXVTRI = s.cfgMAXVTRI := rfl
@[simp] theorem setNoiseGen_time : (setNoiseGen g s).time = s.time := rfl
@[simp] theorem setNoiseGen_inited : (setNoiseGen g s).inited = s.inited := rfl
@[simp] theorem setNoiseGen_ch0 : (setNoiseGen g s).ch0 = s.ch0 := rfl
@[simp] theorem setNoiseGen_ch1 : (setNoiseGen g s).ch1 = s.ch1 := rfl
@[simp] theorem setNoiseGen_ch2 : (setNoiseGen g s).ch2 = s.ch2 := rfl
@[simp] theorem setNoiseGen_ch3 : (setNoiseGen g s).ch3 = { s.ch3 with phase := g.phase } := rfl
@[simp] theorem setNoiseGen_duty0 : (setNoiseGen g s).duty0 = s.duty0 := rfl
@[simp] theorem setNoiseGen_duty1 : (setNoiseGen g s).duty1 = s.duty1 := rfl
@[simp] theorem setNoiseGen_seed : (setNoiseGen g s).seed = g.seed := rfl
@[simp] theorem setNoiseGen_lastRandom : (setNoiseGen g s).lastRandom = g.lastRandom := rfl
@[simp] theorem chan_setNoiseGen_self :
    chan (setNoiseGen g s) .noise = { chan s .noise with phase := g.phase } := rfl
@[simp] theorem chan_setNoiseGen_ne {j : Chan} (h : j ≠ .noise) :
    chan (setNoiseGen g s) j = chan s j := by
  cases j <;> first | rfl | exact absurd rfl h
@[simp] theorem noiseGen_setNoiseGen : noiseGen (setNoiseGen g s) = g := rfl

end setNoiseGenFields

section toneWriteFields
variable (i : Chan) (w0 w1 w2 w3 : Word) (s : State)

@[simp] theorem toneWrite_config : (toneWrite i w0 w1 w2 w3 s).config = s.config := by simp [toneWrite]
@[simp] theorem toneWrite_ops : (toneWrite i w0 w1 w2 w3 s).ops = s.ops := by simp [toneWrite]
@[simp] theorem toneWrite_frames : (toneWrite i w0 w1 w2 w3 s).frames = s.frames := by simp [toneWrite]
@[simp] theorem toneWrite_cfgSR : (toneWrite i w0 w1 w2 w3 s).cfgSR = s.cfgSR := by simp [toneWrite]
@[simp] theorem toneWrite_cfgMAXV : (toneWrite i w0 w1 w2 w3 s).cfgMAXV = s.cfgMAXV := by simp [toneWrite]
@[simp] theorem toneWrite_cfgMAXVTRI : (toneWrite i w0 w1 w2 w3 s).cfgMAXVTRI = s.cfgMAXVTRI := by simp [toneWrite]
@[simp] theorem toneWrite_time : (toneWrite i w0 w1 w2 w3 s).time = s.time := by simp [toneWrite]
@[simp] theorem toneWrite_inited : (toneWrite i w0 w1 w2 w3 s).inited = s.inited := by simp [toneWrite]
@[simp] theorem toneWrite_seed : (toneWrite i w0 w1 w2 w3 s).seed = s.seed := by simp [toneWrite]
@[simp] theorem toneWrite_lastRandom : (toneWrite i w0 w1 w2 w3 s).lastRandom = s.lastRandom := by simp [toneWrite]
@[simp] theorem toneWrite_duty0 : (toneWrite i w0 w1 w2 w3 s).duty0 =
    if i = .p0 then duty s.config.fpFormat (modeField w3) else s.duty0 := by
  simp [toneWrite]
@[simp] theorem toneWrite_duty1 : (toneWrite i w0 w1 w2 w3 s).duty1 =
    if i = .p1 then duty s.config.fpFormat (modeField w3) else s.duty1 := by
  simp [toneWrite]
@[simp] theorem chan_toneWrite_self :
    chan (toneWrite i w0 w1 w2 w3 s) i = toneChannel i w0 w1 w2 w3 s := by
  simp [toneWrite]
@[simp] theorem chan_toneWrite_ne {j : Chan} (h : j ≠ i) :
    chan (toneWrite i w0 w1 w2 w3 s) j = chan s j := by
  simp [toneWrite, h]

end toneWriteFields

section initWriteFields
variable (w0 w1 w2 : Word) (s : State)

@[simp] theorem initWrite_config : (initWrite w0 w1 w2 s).config = s.config := rfl
@[simp] theorem initWrite_ops : (initWrite w0 w1 w2 s).ops = s.ops := rfl
@[simp] theorem initWrite_frames : (initWrite w0 w1 w2 s).frames = s.frames := rfl
@[simp] theorem initWrite_cfgSR : (initWrite w0 w1 w2 s).cfgSR = sampleRateField w0 := rfl
@[simp] theorem initWrite_cfgMAXV : (initWrite w0 w1 w2 s).cfgMAXV = maxVolumeField w1 := rfl
@[simp] theorem initWrite_cfgMAXVTRI : (initWrite w0 w1 w2 s).cfgMAXVTRI = maxVolumeTriField w2 := rfl
@[simp] theorem initWrite_time : (initWrite w0 w1 w2 s).time = 0#64 := rfl
@[simp] theorem initWrite_inited : (initWrite w0 w1 w2 s).inited = true := rfl
@[simp] theorem initWrite_ch0 : (initWrite w0 w1 w2 s).ch0 = Channel.cleared := rfl
@[simp] theorem initWrite_ch1 : (initWrite w0 w1 w2 s).ch1 = Channel.cleared := rfl
@[simp] theorem initWrite_ch2 : (initWrite w0 w1 w2 s).ch2 = Channel.cleared := rfl
@[simp] theorem initWrite_ch3 : (initWrite w0 w1 w2 s).ch3 = Channel.cleared := rfl
@[simp] theorem initWrite_duty0 : (initWrite w0 w1 w2 s).duty0 = fpQuarter s.config.fpFormat := rfl
@[simp] theorem initWrite_duty1 : (initWrite w0 w1 w2 s).duty1 = fpQuarter s.config.fpFormat := rfl
@[simp] theorem initWrite_seed : (initWrite w0 w1 w2 s).seed = s.config.noiseSeedInit := rfl
@[simp] theorem initWrite_lastRandom : (initWrite w0 w1 w2 s).lastRandom = s.config.lastRandomInit := rfl
@[simp] theorem chan_initWrite (i : Chan) : chan (initWrite w0 w1 w2 s) i = Channel.cleared := by
  cases i <;> rfl

end initWriteFields

@[simp] theorem chan_p0 (s : State) : chan s .p0 = s.ch0 := rfl
@[simp] theorem chan_p1 (s : State) : chan s .p1 = s.ch1 := rfl
@[simp] theorem chan_tri (s : State) : chan s .tri = s.ch2 := rfl
@[simp] theorem chan_noise (s : State) : chan s .noise = s.ch3 := rfl

end Sys2Proof.Machine
end

