-- ==== Sys2Proof/Laws/Ops.lean ====
section
/-!
SUPPORT. What each shared operation can answer, said once: the provers cite these and do not unfold
the operations.
-/

namespace Sys2Proof.Machine

/-- When TONE answers a next state, and which. -/
theorem tone_eq_next {i : Chan} {w0 w1 w2 w3 : Word} {s t : State} :
    tone i w0 w1 w2 w3 s = .next t ↔
      s.inited = true ∧ releaseMarker i s.cfgSR s.time w1 ≤ timeMax ∧
        t = toneWrite i w0 w1 w2 w3 s := by
  unfold tone refuse
  rcases Bool.eq_false_or_eq_true s.inited with h | h
  · rcases Nat.lt_or_ge timeMax (releaseMarker i s.cfgSR s.time w1) with h2 | h2
    · simp [h, h2, Nat.not_le.2 h2]
    · simp [h, h2, Nat.not_lt.2 h2, eq_comm]
  · simp [h]

/-- When INIT answers a next state, and which. -/
theorem execInit_eq_next {w0 w1 w2 w3 : Word} {s t : State} :
    execInit w0 w1 w2 w3 s = .next t ↔
      badSampleRate w0 = false ∧ badMaxVolume w1 w2 = false ∧ t = initWrite w0 w1 w2 s := by
  unfold execInit refuse
  rcases Bool.eq_false_or_eq_true (badSampleRate w0) with h | h
  · simp [h]
  · rcases Bool.eq_false_or_eq_true (badMaxVolume w1 w2) with h2 | h2
    · simp [h, h2]
    · simp [h, h2, eq_comm]

/-- When TICK answers a next state. -/
theorem execTick_eq_next {w0 w1 w2 w3 : Word} {s t : State} :
    execTick w0 w1 w2 w3 s = .next t ↔
      s.inited = true ∧ s.time.toNat ≠ timeMax ∧ tickRun s = .next t := by
  unfold execTick refuse
  rcases Bool.eq_false_or_eq_true s.inited with h | h
  · by_cases h2 : s.time.toNat = timeMax <;> simp [h, h2]
  · simp [h]

/-- A TICK that runs answers the state of its channel loop with the frame emitted and the time
advanced. -/
theorem tickRun_eq_next {s t : State} :
    tickRun s = .next t ↔
      ∃ s' f, mixVoices s.time channelOrder s silence = some (s', f) ∧
        t = setTime (s.time + 1#64) (emit f s') := by
  unfold tickRun
  rcases mixVoices s.time channelOrder s silence with _ | ⟨s', f⟩
  · simp
  · constructor
    · intro h
      exact ⟨s', f, rfl, by simpa using h.symm⟩
    · rintro ⟨s'', f', h1, rfl⟩
      cases h1
      rfl

/-- What a pulse channel's voice answers: the advanced phase written, the sample at it (R121). -/
theorem voice_p0_eq_some {t : BitVec 64} {s s' : State} {x : Int} :
    voice .p0 t s = some (s', x) ↔
      ∃ ph, advance s.config.fpFormat s.cfgSR (freqAt s.config.fpFormat s.ch0 t) s.ch0.phase = some ph ∧
        s' = setPhase .p0 ph s ∧
        x = pulseSample s.config.fpFormat s.duty0 ph
          (phaseInc s.config.fpFormat s.cfgSR (freqAt s.config.fpFormat s.ch0 t))
          (volAt s.config.fpFormat s.ch0 t) := by
  simp only [voice, pulse, chan]
  rcases advance _ _ _ s.ch0.phase with _ | ph <;> simp [eq_comm]

theorem voice_p1_eq_some {t : BitVec 64} {s s' : State} {x : Int} :
    voice .p1 t s = some (s', x) ↔
      ∃ ph, advance s.config.fpFormat s.cfgSR (freqAt s.config.fpFormat s.ch1 t) s.ch1.phase = some ph ∧
        s' = setPhase .p1 ph s ∧
        x = pulseSample s.config.fpFormat s.duty1 ph
          (phaseInc s.config.fpFormat s.cfgSR (freqAt s.config.fpFormat s.ch1 t))
          (volAt s.config.fpFormat s.ch1 t) := by
  simp only [voice, pulse, chan]
  rcases advance _ _ _ s.ch1.phase with _ | ph <;> simp [eq_comm]

/-- What the triangle's voice answers (R125). -/
theorem voice_tri_eq_some {t : BitVec 64} {s s' : State} {x : Int} :
    voice .tri t s = some (s', x) ↔
      ∃ ph, advance s.config.fpFormat s.cfgSR (freqAt s.config.fpFormat s.ch2 t) s.ch2.phase = some ph ∧
        s' = setPhase .tri ph s ∧
        x = triangleSample s.config.fpFormat ph (volAt s.config.fpFormat s.ch2 t) := by
  simp only [voice, triangle, chan]
  rcases advance _ _ _ s.ch2.phase with _ | ph <;> simp [eq_comm]

/-- What the noise channel's voice answers (R130, R132). -/
theorem voice_noise_eq_some {t : BitVec 64} {s s' : State} {x : Int} :
    voice .noise t s = some (s', x) ↔
      ∃ g, noiseAdvance s.config.fpFormat s.cfgSR (freqAt s.config.fpFormat s.ch3 t) (noiseGen s) =
          some g ∧
        s' = setNoiseGen g s ∧
        x = volAt s.config.fpFormat s.ch3 t * lastRandomInt g.lastRandom := by
  simp only [voice, noise, chan]
  rcases noiseAdvance _ _ _ (noiseGen s) with _ | g <;> simp [eq_comm]

/-- The only state a generator writes: its channel's phase, or the noise generator (R39, R40). -/
theorem voice_cases {i : Chan} {t : BitVec 64} {s s' : State} {x : Int}
    (h : voice i t s = some (s', x)) :
    (i ≠ .noise ∧ ∃ p, s' = setPhase i p s) ∨ (i = .noise ∧ ∃ g, s' = setNoiseGen g s) := by
  unfold voice at h
  cases i <;> simp only [Option.map_eq_some_iff] at h <;> obtain ⟨r, -, hr⟩ := h <;> cases hr
  · exact .inl ⟨by decide, r.1, rfl⟩
  · exact .inl ⟨by decide, r.1, rfl⟩
  · exact .inl ⟨by decide, r.1, rfl⟩
  · exact .inr ⟨rfl, r.1, rfl⟩

/-- One pass of the channel loop: an inactive channel is skipped, an active one evaluated and mixed. -/
theorem mixVoice_cases {i : Chan} {t : BitVec 64} {s s' : State} {acc acc' : Frame}
    (h : mixVoice i t s acc = some (s', acc')) :
    (active t (chan s i) = false ∧ s' = s ∧ acc' = acc) ∨
    (active t (chan s i) = true ∧ ∃ x, voice i t s = some (s', x) ∧
      acc' = mixInto (chan s i).pan x acc) := by
  unfold mixVoice at h
  split at h
  · rename_i ha
    simp only [Option.map_eq_some_iff] at h
    obtain ⟨⟨s'', x⟩, h1, h2⟩ := h
    cases h2
    exact .inr ⟨ha, x, h1, rfl⟩
  · rename_i ha
    cases h
    exact .inl ⟨by simpa using ha, rfl, rfl⟩

/-- The channel loop over one more channel. -/
theorem mixVoices_cons {t : BitVec 64} {i : Chan} {rest : List Chan} {s s' : State}
    {acc acc' : Frame} :
    mixVoices t (i :: rest) s acc = some (s', acc') ↔
      ∃ s1 acc1, mixVoice i t s acc = some (s1, acc1) ∧
        mixVoices t rest s1 acc1 = some (s', acc') := by
  rw [mixVoices]
  rcases mixVoice i t s acc with _ | ⟨s1, acc1⟩ <;> simp

/-- The channel loop over all four channels, in order. -/
theorem mixVoices_order {t : BitVec 64} {s s' : State} {acc acc' : Frame} :
    mixVoices t channelOrder s acc = some (s', acc') ↔
      ∃ s1 a1 s2 a2 s3 a3, mixVoice .p0 t s acc = some (s1, a1) ∧
        mixVoice .p1 t s1 a1 = some (s2, a2) ∧ mixVoice .tri t s2 a2 = some (s3, a3) ∧
        mixVoice .noise t s3 a3 = some (s', acc') := by
  constructor
  · intro h
    obtain ⟨s1, a1, h1, h⟩ := mixVoices_cons.1 h
    obtain ⟨s2, a2, h2, h⟩ := mixVoices_cons.1 h
    obtain ⟨s3, a3, h3, h⟩ := mixVoices_cons.1 h
    obtain ⟨s4, a4, h4, h⟩ := mixVoices_cons.1 h
    simp only [mixVoices, Option.some.injEq, Prod.mk.injEq] at h
    obtain ⟨rfl, rfl⟩ := h
    exact ⟨s1, a1, s2, a2, s3, a3, h1, h2, h3, h4⟩
  · rintro ⟨s1, a1, s2, a2, s3, a3, h1, h2, h3, h4⟩
    simp [channelOrder, mixVoices, h1, h2, h3, h4]

/-- One pass of the channel loop leaves the parameters, the streams, the registers and the time. -/
theorem mixVoice_fields {i : Chan} {t : BitVec 64} {s s' : State} {acc acc' : Frame}
    (h : mixVoice i t s acc = some (s', acc')) :
    s'.config = s.config ∧ s'.ops = s.ops ∧ s'.frames = s.frames ∧ s'.cfgSR = s.cfgSR ∧
    s'.cfgMAXV = s.cfgMAXV ∧ s'.cfgMAXVTRI = s.cfgMAXVTRI ∧ s'.time = s.time ∧
    s'.inited = s.inited ∧ s'.duty0 = s.duty0 ∧ s'.duty1 = s.duty1 := by
  rcases mixVoice_cases h with ⟨-, rfl, -⟩ | ⟨-, x, hv, -⟩
  · simp
  · rcases voice_cases hv with ⟨-, p, rfl⟩ | ⟨-, g, rfl⟩ <;> simp

/-- One pass of the channel loop touches no other channel's record (R40). -/
theorem mixVoice_other {i j : Chan} {t : BitVec 64} {s s' : State} {acc acc' : Frame}
    (h : mixVoice i t s acc = some (s', acc')) (hj : j ≠ i) : chan s' j = chan s j := by
  rcases mixVoice_cases h with ⟨-, rfl, -⟩ | ⟨-, x, hv, -⟩
  · rfl
  · rcases voice_cases hv with ⟨-, p, rfl⟩ | ⟨rfl, g, rfl⟩ <;> simp [hj]

/-- One pass of the channel loop changes nothing of its own channel's record but the phase (R40). -/
theorem mixVoice_self {i : Chan} {t : BitVec 64} {s s' : State} {acc acc' : Frame}
    (h : mixVoice i t s acc = some (s', acc')) :
    chan s' i = { chan s i with phase := (chan s' i).phase } := by
  rcases mixVoice_cases h with ⟨-, rfl, -⟩ | ⟨-, x, hv, -⟩
  · rfl
  · rcases voice_cases hv with ⟨-, p, rfl⟩ | ⟨rfl, g, rfl⟩ <;> simp

/-- Only the noise channel's pass writes the LFSR (R34, R40). -/
theorem mixVoice_lfsr {i : Chan} {t : BitVec 64} {s s' : State} {acc acc' : Frame}
    (h : mixVoice i t s acc = some (s', acc')) (hi : i ≠ .noise) :
    s'.seed = s.seed ∧ s'.lastRandom = s.lastRandom := by
  rcases mixVoice_cases h with ⟨-, rfl, -⟩ | ⟨-, x, hv, -⟩
  · simp
  · rcases voice_cases hv with ⟨-, p, rfl⟩ | ⟨rfl, g, rfl⟩
    · simp
    · exact absurd rfl hi

/-- The loop of ADVANCE ends with its test false (R120). -/
theorem wrapLoop_done {m : FpFormat} {n : Nat} {x y : Fp} (h : wrapLoop m n x = some y) :
    fle (fpOne m) y = false := by
  induction n generalizing x with
  | zero =>
    simp only [wrapLoop] at h
    split at h
    · cases h
    · rename_i hx
      cases h
      simpa using hx
  | succ n ih =>
    simp only [wrapLoop] at h
    split at h
    · exact ih h
    · rename_i hx
      cases h
      simpa using hx

/-- What the loop of ADVANCE answers: the phase after the first number of passes at which its test is
false, which is within its fuel (R120). -/
theorem wrapLoop_passes {m : FpFormat} {n : Nat} {x y : Fp} (h : wrapLoop m n x = some y) :
    ∃ k, k ≤ n ∧ y = Nat.iterate (fun z => fsub m z (fpOne m)) k x ∧
      ∀ j < k, fle (fpOne m) (Nat.iterate (fun z => fsub m z (fpOne m)) j x) = true := by
  induction n generalizing x with
  | zero =>
    simp only [wrapLoop] at h
    split at h
    · cases h
    · cases h
      exact ⟨0, le_rfl, rfl, by simp⟩
  | succ n ih =>
    simp only [wrapLoop] at h
    split at h
    · rename_i hx
      obtain ⟨k, hk, rfl, hj⟩ := ih h
      refine ⟨k + 1, by omega, rfl, fun j hlt => ?_⟩
      cases j with
      | zero => exact hx
      | succ j => exact hj j (by omega)
    · cases h
      exact ⟨0, by omega, rfl, by simp⟩

/-- The loop of NOISE ends with its test false (R130). -/
theorem noiseLoop_done {m : FpFormat} {n : Nat} {g g' : NoiseGen}
    (h : noiseLoop m n g = some g') : flt fpZero g'.phase = false := by
  induction n generalizing g with
  | zero =>
    simp only [noiseLoop] at h
    split at h
    · cases h
    · rename_i hx
      cases h
      simpa using hx
  | succ n ih =>
    simp only [noiseLoop] at h
    split at h
    · exact ih h
    · rename_i hx
      cases h
      simpa using hx

/-- What the loop of NOISE answers: the generator after the first number of passes at which its test is
false, which is within its fuel (R130). -/
theorem noiseLoop_passes {m : FpFormat} {n : Nat} {g g' : NoiseGen}
    (h : noiseLoop m n g = some g') :
    ∃ k, k ≤ n ∧ g' = Nat.iterate (noiseStep m) k g ∧ flt fpZero g'.phase = false ∧
      ∀ j < k, flt fpZero (Nat.iterate (noiseStep m) j g).phase = true := by
  induction n generalizing g with
  | zero =>
    have hd := noiseLoop_done h
    simp only [noiseLoop] at h
    split at h
    · cases h
    · cases h
      exact ⟨0, le_rfl, rfl, hd, by simp⟩
  | succ n ih =>
    have hd := noiseLoop_done h
    simp only [noiseLoop] at h
    split at h
    · rename_i hg
      obtain ⟨k, hk, rfl, -, hj⟩ := ih h
      refine ⟨k + 1, by omega, rfl, hd, fun j hlt => ?_⟩
      cases j with
      | zero => exact hg
      | succ j => exact hj j (by omega)
    · cases h
      exact ⟨0, by omega, rfl, hd, by simp⟩

/-- The accumulator after `k` passes: `k` subtractions of 1. -/
theorem noiseStep_iterate_phase (m : FpFormat) (k : Nat) (g : NoiseGen) :
    (Nat.iterate (noiseStep m) k g).phase =
      Nat.iterate (fun x => fsub m x (fpOne m)) k g.phase := by
  induction k generalizing g with
  | zero => rfl
  | succ k ih => exact ih (noiseStep m g)

/-- The seed after `k` passes: `k` LFSR steps (R131). -/
theorem noiseStep_iterate_seed (m : FpFormat) (k : Nat) (g : NoiseGen) :
    (Nat.iterate (noiseStep m) k g).seed = Nat.iterate lfsrNext k g.seed := by
  induction k generalizing g with
  | zero => rfl
  | succ k ih => exact ih (noiseStep m g)

/-- After at least one pass, lastRandom is the sign of the seed (R131). -/
theorem noiseStep_iterate_lastRandom (m : FpFormat) (k : Nat) (g : NoiseGen) :
    (Nat.iterate (noiseStep m) (k + 1) g).lastRandom =
      lfsrSign (Nat.iterate (noiseStep m) (k + 1) g).seed := by
  induction k generalizing g with
  | zero => rfl
  | succ k ih => exact ih (noiseStep m g)

/-- What a step can answer as a next state: the idle step, or the executed head of the stream. -/
theorem step_eq_next {s t : State} (h : step s = .next t) :
    (s.ops = [] ∧ t = s) ∨
    ∃ w rest, s.ops = w :: rest ∧ exec (decode w) { s with ops := rest } = .next t := by
  unfold step takeOperation at h
  rcases hops : s.ops with _ | ⟨w, rest⟩
  · simp only [hops] at h
    cases h
    exact .inl ⟨rfl, rfl⟩
  · simp only [hops] at h
    exact .inr ⟨w, rest, rfl, h⟩

/-- A value is representable when it fits the precision and is below the finite limit. -/
theorem representable_fin {m : FpFormat} {n : Bool} {a : Nat} :
    representable m (.fin n a) = true ↔ FitsBits (prec m) a ∧ a < limitMag m := by
  simp [representable, Nat.dvd_iff_mod_eq_zero]

/-- 1.0 is below the finite limit. -/
theorem oneMag_lt_limit (m : FpFormat) : oneMag m < limitMag m := by
  simpa using two_pow_mul_oneMag_lt m (e := 0) (by norm_num)

/-- What a legal phase of a tonal channel is. -/
theorem tonalPhaseOk_iff {m : FpFormat} {x : Fp} :
    tonalPhaseOk m x = true ↔ ∃ a, x = .fin false a ∧ a < oneMag m ∧ FitsBits (prec m) a := by
  cases x with
  | nan => simp [tonalPhaseOk]
  | inf n => simp [tonalPhaseOk]
  | fin n a =>
    have hl := oneMag_lt_limit m
    simp only [tonalPhaseOk, Bool.and_eq_true, representable_fin, decide_eq_true_eq]
    constructor
    · rintro ⟨⟨hn, ha⟩, hf, -⟩
      cases n
      · exact ⟨a, rfl, ha, hf⟩
      · exact absurd hn (by decide)
    · rintro ⟨b, hb, h1, h2⟩
      cases hb
      exact ⟨⟨rfl, h1⟩, h2, lt_trans h1 hl⟩

/-- What a legal accumulator of the noise channel is: +0, or a negative value from -1. -/
theorem noisePhaseOk_iff {m : FpFormat} {x : Fp} :
    noisePhaseOk m x = true ↔
      x = fpZero ∨ ∃ a, x = .fin true a ∧ 0 < a ∧ a ≤ oneMag m ∧ FitsBits (prec m) a := by
  cases x with
  | nan => simp [noisePhaseOk, fpZero]
  | inf n => simp [noisePhaseOk, fpZero]
  | fin n a =>
    have hl := oneMag_lt_limit m
    simp only [noisePhaseOk, Bool.and_eq_true, representable_fin]
    cases n
    · have h0 : FitsBits (prec m) 0 ∧ 0 < limitMag m := ⟨dvd_zero _, by omega⟩
      constructor
      · rintro ⟨h, -⟩
        simp only [Bool.false_eq_true, if_false, decide_eq_true_eq] at h
        exact .inl (by rw [h]; rfl)
      · rintro (h | ⟨b, hb, -⟩)
        · cases h
          exact ⟨by simp, h0⟩
        · cases hb
    · constructor
      · rintro ⟨h, hf, -⟩
        simp only [if_true, decide_eq_true_eq] at h
        exact .inr ⟨a, rfl, h.1, h.2, hf⟩
      · rintro (h | ⟨b, hb, h1, h2, h3⟩)
        · cases h
        · cases hb
          exact ⟨by simp [h1, h2], h3, lt_of_le_of_lt h2 hl⟩

end Sys2Proof.Machine
end

