-- ==== Sys2Proof/Laws/PerInstr.lean ====
section
/-!
SUPPORT. A fact per constructor about the operation as syntax: the decode key of a well-formed
operation's encoding matches its own row of the opcode map (R60, R73).
-/

namespace Sys2Proof.Laws

/-- Where the slices of an operation lie: a slice at or above the low word is a slice of the rest. -/
theorem slice_high {v : Nat} {hi : BitVec v} {lo : Word} (start len : Nat) (h : 32 ≤ start) :
    (hi ++ lo).extractLsb' start len = hi.extractLsb' (start - 32) len :=
  BitVec.extractLsb'_append_eq_of_le h

/-- The low word of an operation. -/
theorem slice_low {v : Nat} {hi : BitVec v} {lo : Word} : (hi ++ lo).extractLsb' 0 32 = lo :=
  BitVec.extractLsb'_append_eq_right

section fields
variable (op : BitVec 2) (w0 w1 w2 w3 : Word)

/-- The select code of an assembled operation reads back (R60). -/
theorem opField_assemble : opField (assemble op w0 w1 w2 w3) = op :=
  (slice_high 128 2 (by decide)).trans <| (slice_high 96 2 (by decide)).trans <|
    (slice_high 64 2 (by decide)).trans <| (slice_high 32 2 (by decide)).trans <|
    BitVec.extractLsb'_eq_self

/-- The flags word of an assembled operation reads back (R60). -/
theorem w3Field_assemble : w3Field (assemble op w0 w1 w2 w3) = w3 :=
  (slice_high 96 32 (by decide)).trans <| (slice_high 64 32 (by decide)).trans <|
    (slice_high 32 32 (by decide)).trans slice_low

/-- The volume word of an assembled operation reads back (R60). -/
theorem w2Field_assemble : w2Field (assemble op w0 w1 w2 w3) = w2 :=
  (slice_high 64 32 (by decide)).trans <| (slice_high 32 32 (by decide)).trans slice_low

/-- The duration word of an assembled operation reads back (R60). -/
theorem w1Field_assemble : w1Field (assemble op w0 w1 w2 w3) = w1 :=
  (slice_high 32 32 (by decide)).trans slice_low

/-- The frequency word of an assembled operation reads back (R60). -/
theorem w0Field_assemble : w0Field (assemble op w0 w1 w2 w3) = w0 := slice_low

end fields

/-- The decode key of an assembled operation is its select code over its flags word (R60). -/
theorem keyOf_assemble (op : BitVec 2) (w0 w1 w2 w3 : Word) :
    keyOf (assemble op w0 w1 w2 w3) = op ++ w3 := by
  rw [keyOf, opField_assemble, w3Field_assemble]

/-- The mask 3 keeps the channel field of a flags word (R65). -/
theorem flags_and_three (w3 : Word) : w3 &&& 3#32 = (channelBits w3).setWidth 32 := by
  apply BitVec.eq_of_toNat_eq
  have h : w3.toNat &&& 3 = w3.toNat % 4 := Nat.and_two_pow_sub_one_eq_mod w3.toNat 2
  have h4 : w3.toNat % 4 % 4294967296 = w3.toNat % 4 := by omega
  simp [channelBits, BitVec.extractLsb'_toNat, h, h4]

/-- A key masked on the select code alone. -/
theorem key_and_select (op : BitVec 2) (w3 : Word) :
    (op ++ w3) &&& 0x300000000#34 = op ++ 0#32 := by
  have h : (0x300000000#34) = 3#2 ++ 0#32 := by decide
  rw [h, BitVec.and_append, BitVec.and_zero, show (3#2) = BitVec.allOnes 2 by decide,
    BitVec.and_allOnes]

/-- A key masked on the select code and the channel field. -/
theorem key_and_channel (op : BitVec 2) (w3 : Word) :
    (op ++ w3) &&& 0x300000003#34 = op ++ (channelBits w3).setWidth 32 := by
  have h : (0x300000003#34) = 3#2 ++ 3#32 := by decide
  rw [h, BitVec.and_append, flags_and_three, show (3#2) = BitVec.allOnes 2 by decide,
    BitVec.and_allOnes]

namespace RowMatch

/-- The key of the encoding, masked as the row of the map says, is the row's match. -/
def Statement (i : Instr) : Prop :=
  i.wellFormed = true → keyOf (encode i) &&& i.rowMatchMask.2 = i.rowMatchMask.1

/-- A row that the select code alone decides. -/
theorem of_select {i : Instr} {op : BitVec 2} {w0 w1 w2 w3 : Word}
    (he : encode i = assemble op w0 w1 w2 w3) (hm : i.rowMatchMask.2 = 0x300000000#34)
    (hr : i.rowMatchMask.1 = op ++ 0#32) : Statement i := by
  intro _
  rw [he, keyOf_assemble, hm, hr, key_and_select]

/-- A row that the select code and the channel field decide. -/
theorem of_channel {i : Instr} {op c : BitVec 2} {w0 w1 w2 w3 : Word}
    (he : encode i = assemble op w0 w1 w2 w3) (hm : i.rowMatchMask.2 = 0x300000003#34)
    (hr : i.rowMatchMask.1 = op ++ c.setWidth 32)
    (hc : i.wellFormed = true → channelBits w3 = c) : Statement i := by
  intro h
  rw [he, keyOf_assemble, hm, hr, key_and_channel, hc h]

theorem tick (w0 w1 w2 w3 : Word) : Statement (.tick w0 w1 w2 w3) :=
  of_select (op := 0#2) rfl rfl rfl

theorem toneP0 (w0 w1 w2 w3 : Word) : Statement (.toneP0 w0 w1 w2 w3) :=
  of_channel (op := 1#2) (c := 0#2) rfl rfl rfl (by simp [Instr.wellFormed])

theorem toneP1 (w0 w1 w2 w3 : Word) : Statement (.toneP1 w0 w1 w2 w3) :=
  of_channel (op := 1#2) (c := 1#2) rfl rfl rfl (by simp [Instr.wellFormed])

theorem toneTri (w0 w1 w2 w3 : Word) : Statement (.toneTri w0 w1 w2 w3) :=
  of_channel (op := 1#2) (c := 2#2) rfl rfl rfl (by simp [Instr.wellFormed])

theorem toneNoise (w0 w1 w2 w3 : Word) : Statement (.toneNoise w0 w1 w2 w3) :=
  of_channel (op := 1#2) (c := 3#2) rfl rfl rfl (by simp [Instr.wellFormed])

theorem init (w0 w1 w2 w3 : Word) : Statement (.init w0 w1 w2 w3) :=
  of_select (op := 2#2) rfl rfl rfl

theorem reserved (w0 w1 w2 w3 : Word) : Statement (.reserved w0 w1 w2 w3) :=
  of_select (op := 3#2) rfl rfl rfl

end RowMatch

end Sys2Proof.Laws
end

