-- ==== Sys2Proof/Tests/Slice0.lean ====
section
/-!
SUPPORT. Tests on single operations, expected values from 95_test_vectors.md and the worked examples
of the rules; the smoke test of WellFormed; and a witness for every statement that has hypotheses.
-/

namespace Sys2Proof.Tests

open Sys2Proof Sys2Proof.Machine Sys2Proof.Claims

/-- The state after `INIT sr, maxv, maxvtri` from power-on. -/
def inited (sr maxv maxvtri : Nat) : State :=
  initWrite (BitVec.ofNat 32 sr) (BitVec.ofNat 32 maxv) (BitVec.ofNat 32 maxvtri) State.reset

/-- The state of most vectors: `INIT 44100, 0x1333, 0x2000`. -/
def s441 : State := inited 44100 0x1333 0x2000

/-- The state an answer holds, or power-on where it holds none. -/
def stateOf : Answer → State
  | .next t => t
  | .fault _ => State.reset
  | .refused _ => State.reset

/-- The refusal an answer holds. -/
def refusalOf : Answer → Option Refusal
  | .next _ => none
  | .fault _ => none
  | .refused r => some r

/-- A frame as a pair of integers. -/
def pair (f : Frame) : Int × Int := (f.left.toInt, f.right.toInt)

/-- The frames of a state as pairs of integers. -/
def pairs (s : State) : List (Int × Int) := s.frames.map pair

/-- The five markers of a channel. -/
def markers (c : Channel) : List Nat :=
  [c.startTime.toNat, c.attackTime.toNat, c.decayTime.toNat, c.sustainTime.toNat,
    c.releaseTime.toNat]

/-- A decimal fraction in binary32. -/
def dec (n d : Int) : Fp := fdiv .binary32 (fp .binary32 n) (fp .binary32 d)

/-- A TICK from a state. -/
def tickOf (s : State) : State := stateOf (exec (.tick 0#32 0#32 0#32 0#32) s)

/-! ## WellFormed refuses each ill-formed term -/

theorem test_illFormed_toneP0 : (Instr.toneP0 0#32 0#32 0#32 1#32).wellFormed = false := by decide
theorem test_illFormed_toneP1 : (Instr.toneP1 0#32 0#32 0#32 0#32).wellFormed = false := by decide
theorem test_illFormed_toneTri : (Instr.toneTri 0#32 0#32 0#32 3#32).wellFormed = false := by decide
theorem test_illFormed_toneNoise : (Instr.toneNoise 0#32 0#32 0#32 2#32).wellFormed = false := by
  decide

/-! ## Decoding words written out from 95_test_vectors.md Part 3 -/

theorem test_decode_tick :
    decode 0x0_00000000_00000000_00000000_00000000#130 = .tick 0#32 0#32 0#32 0#32 := by decide
theorem test_decode_toneP0 :
    decode 0x1_00000018_00000064_00000001_00000064#130 =
      .toneP0 0x64#32 0x1#32 0x64#32 0x18#32 := by decide
theorem test_decode_toneP1 :
    decode 0x1_00000001_00006432_01010101_00C80064#130 =
      .toneP1 0x00C80064#32 0x01010101#32 0x00006432#32 0x1#32 := by decide
theorem test_decode_toneTri :
    decode 0x1_00000012_00000064_00000001_00005622#130 =
      .toneTri 0x5622#32 0x1#32 0x64#32 0x12#32 := by decide
theorem test_decode_toneNoise :
    decode 0x1_00000023_00000064_00000001_000003E8#130 =
      .toneNoise 0x3E8#32 0x1#32 0x64#32 0x23#32 := by decide
theorem test_decode_init :
    decode 0x2_00000000_00002000_00001333_0000AC44#130 =
      .init 44100#32 0x1333#32 0x2000#32 0#32 := by decide
theorem test_decode_reserved :
    decode 0x3_00000000_00000000_00000000_00000000#130 = .reserved 0#32 0#32 0#32 0#32 := by decide
theorem test_decodeNat_tooWide :
    (match decodeNat (2 ^ 130) with | .error .tooWide => true | .ok _ => false) = true := by decide
/-- The table's row TONE.TRI, match 0x100000002 on the key (R73). -/
theorem test_tableWord_toneTri :
    decodeTableWord 40 0x100000002 = some (.toneTri 0#32 0#32 0#32 2#32) := by decide

/-! ## The operand fields of the worked example of R90 -/

theorem test_durationFields :
    (attackTicks 0x0A050814#32).toNat = 10 ∧ (decayTicks 0x0A050814#32).toNat = 5 ∧
    (sustainTicks 0x0A050814#32).toNat = 20 ∧ (releaseTicks 0x0A050814#32).toNat = 8 := by decide
theorem test_flagsFields :
    (panField 0x2D#32).toNat = 2 ∧ (modeField 0x2D#32).toNat = 3 ∧
    (channelBits 0x2D#32).toNat = 1 := by decide

/-! ## TONE: the rows of 2.2 and E8 -/

theorem test_toneP0_allOnes :
    (stateOf (exec (.toneP0 0xFFFFFFFF#32 0xFFFFFFFF#32 0xFFFFFFFF#32 0x3C#32) s441)).ch0 =
      { Channel.cleared with
        freq1 := 65535#16, freq2 := 65535#16, attackTime := 187425#64, decayTime := 374850#64
        sustainTime := 562275#64, releaseTime := 749700#64, peakVolume := 4915#16
        sustainVolume := 4915#16, pan := 3#2 } := by decide
theorem test_toneP1_peakByteOver100 :
    ((stateOf (exec (.toneP1 0x1B8#32 1#32 0xFF00#32 0x9#32) s441)).ch1.peakVolume.toNat,
     (stateOf (exec (.toneP1 0x1B8#32 1#32 0xFF00#32 0x9#32) s441)).ch1.sustainVolume.toNat) =
      (4915, 0) := by decide
/-- E9: mode 2 on channel 1 gives 0.5. -/
theorem test_toneP1_duty :
    fpBits .binary32 (stateOf (exec (.toneP1 0x1B8#32 1#32 0xFF00#32 0x9#32) s441)).duty1 =
      some 0x3F000000 := by decide
/-- E8: SR 22050, attack 1 and decay 1 tick, extension 22. -/
theorem test_toneTri_antiPop :
    markers (stateOf (exec (.toneTri 0x64#32 0x01010000#32 0x32#32 2#32)
      (inited 22050 0x1333 0x2000))).ch2 = [0, 367, 734, 734, 756] := by decide
/-- R91: release time 100, time 101 resets the phase to 0.25; time 100 keeps it. -/
theorem test_toneTri_retrigger :
    let s (t : Nat) : State := { s441 with
      time := BitVec.ofNat 64 t
      ch2 := { Channel.cleared with releaseTime := 100#64, phase := dec 3 10 } }
    let after (t : Nat) := (stateOf (exec (.toneTri 100#32 1#32 100#32 2#32) (s t))).ch2.phase
    after 101 = dec 1 4 ∧ after 100 = dec 3 10 := by decide +kernel
/-- 2.2: TONE on channel 3 at time 10 resets the accumulator and keeps the seed. -/
theorem test_toneNoise_keepsSeed :
    let s : State := { s441 with
      time := 10#64, seed := 0x5121#16, lastRandom := .plusOne
      ch3 := { Channel.cleared with phase := dec (-1) 2 } }
    let t := stateOf (exec (.toneNoise 0x3E8#32 1#32 0x64#32 0x1B#32) s)
    (t.ch3.phase, t.seed, t.lastRandom, t.ch3.pan.toNat) =
      (fpZero, 0x5121#16, .plusOne, 1) := by decide +kernel
/-- 2.2: at time 2^64 - 749700 the all-ones TONE would end at 2^64 and is refused; one sample earlier
it is accepted. -/
theorem test_tone_markerOverflow :
    let op : Instr := .toneP0 0xFFFFFFFF#32 0xFFFFFFFF#32 0xFFFFFFFF#32 0#32
    let s (t : Nat) : State := { s441 with time := BitVec.ofNat 64 t }
    refusalOf (exec op (s (2 ^ 64 - 749700))) =
      some (.markerOverflow 1#2 0xFFFFFFFF#32 0xFFFFFFFF#32 0xFFFFFFFF#32 0#32
        (BitVec.ofNat 64 (2 ^ 64 - 749700))) ∧
    (stateOf (exec op (s (2 ^ 64 - 749701)))).ch0.releaseTime.toNat = 2 ^ 64 - 1 := by decide
theorem test_tone_notInitialised :
    refusalOf (exec (.toneNoise 1#32 2#32 3#32 7#32) State.reset) =
      some (.notInitialised 1#2 1#32 2#32 3#32 7#32) := by decide

/-! ## INIT and RESERVED: the rows of 2.8 -/

theorem test_init_highHalvesIgnored :
    let t := stateOf (exec (.init 44100#32 0xFFFF1333#32 0x00012000#32 0xDEADBEEF#32) State.reset)
    (t.cfgSR.toNat, t.cfgMAXV.toNat, t.cfgMAXVTRI.toNat, t.time.toNat, t.inited, t.seed) =
      (44100, 4915, 8192, 0, true, 1#16) := by decide
theorem test_init_refusalOrder :
    refusalOf (exec (.init 999#32 0x8000#32 0x2000#32 0#32) s441) =
      some (.badSampleRate 2#2 999#32) ∧
    refusalOf (exec (.init 44100#32 0x1333#32 0xFFFF#32 0#32) s441) =
      some (.badMaxVolume 2#2 0x1333#32 0xFFFF#32) := by decide
theorem test_reserved_refused :
    refusalOf (exec (.reserved 1#32 2#32 3#32 4#32) s441) =
      some (.reservedOperation 3#2 1#32 2#32 3#32 4#32) := by decide

/-! ## Floating point, ramp and envelope: the tables of 2.1 and 2.3 -/

theorem test_ramp_thirds :
    ramp .binary32 4915 0 1 0 3 = 3276 ∧
    fpBits .binary32 (rampTau .binary32 1 0 3) = some 0x3EAAAAAB := by decide +kernel
theorem test_ramp_truncates :
    ramp .binary32 0 65535 1 0 2 = 32767 ∧ ramp .binary32 65535 0 1 0 2 = 32767 ∧
    ramp .binary32 0 (-1) 1 0 2 = 0 ∧ ramp .binary32 100 0 5 5 5 = 0 := by decide +kernel
theorem test_ramp_tauRoundsToOne : ramp .binary32 0 8192 (2 ^ 30 - 1) 0 (2 ^ 30) = 8192 := by
  decide +kernel
/-- E3: the sampled points at 3675, 9187, 11025 and 31604. -/
theorem test_envelope_points :
    let c := (toneWrite .p0 0x037001B8#32 0x0A050814#32 0x00006432#32 0#32 s441).ch0
    [3675, 9187, 11025, 31604].map (fun t => volAt .binary32 c (BitVec.ofNat 64 t)) =
      [2457, 3686, 2457, 0] ∧
    [3675, 9187, 11025, 31604].map (fun t => freqAt .binary32 c (BitVec.ofNat 64 t)) =
      [491, 567, 593, 879] := by decide +kernel

/-! ## Oscillators: the tables of 2.4 to 2.6 -/

theorem test_polyblep_table :
    [dec 4 100, dec 95 100, dec 99 100, dec 5 10].map
      (fun p => fpBits .binary32 (polyblep .binary32 p (dec 8 100))) =
      [some 0x3F400000, some 0x3EC80010, some 0x3C800000, some 0x3F800000] := by decide +kernel
/-- R121: from phase 0.5 at 440 Hz. -/
theorem test_pulse_example :
    (pulse .binary32 44100#32 (dec 1 4) 440 4915 (dec 1 2)).map
      (fun r => (fpBits .binary32 r.1, r.2)) = some (some 0x3F028DE0, -4915) := by decide +kernel
/-- 2.4: the phase wraps more than once when the frequency exceeds the sample rate. -/
theorem test_advance_wrapsTwice :
    advance .binary32 1000#32 2500 fpZero = some (dec 1 2) := by decide +kernel
/-- R125: from phase 0.25 at 441 Hz. -/
theorem test_triangle_example :
    (triangle .binary32 44100#32 441 8192 (dec 1 4)).map
      (fun r => (fpBits .binary32 r.1, r.2)) = some (some 0x3E851EB8, -327) := by decide +kernel
/-- E7: the first seeds and signs from 0x0001. -/
theorem test_lfsr_sequence :
    lfsrNext 0x0001#16 = 0x0201#16 ∧ lfsrNext 0x0201#16 = 0x0805#16 ∧
    lfsrNext 0x0805#16 = 0x2214#16 ∧ lfsrSign 0x0805#16 = .plusOne ∧
    lfsrSign 0x2214#16 = .minusOne := by decide
/-- 2.6: K, and the increments at SR 1000 and 44100. -/
theorem test_noise_increment :
    fpBits .binary32 (noiseK .binary32) = some 0x41B567E9 ∧
    fpBits .binary32 (noiseInc .binary32 1000#32 65535) = some 0x4838F691 ∧
    fpBits .binary32 (noiseInc .binary32 44100#32 65535) = some 0x458636B1 := by decide +kernel

/-- R130 by hand at 1 Hz and SR 16777215 from phase 0: the increment 2^-28.5 is below half a unit in the
last place of 1 - 2^-24, so the subtraction of 1 gives exactly -1 (0xBF800000), outside R30's interval
(assumption 12). -/
theorem test_noise_reachesMinusOne :
    (noiseAdvance .binary32 16777215#32 1 { phase := fpZero, seed := 1#16, lastRandom := .zero }).map
      (fun g => (fpBits .binary32 g.phase, g.seed)) = some (some 0xBF800000, 0x0201#16) := by
  decide +kernel

/-- R15: trunc rounds toward zero on a negative value (-1.5 to -1), and fp(2^24 + 1) is the even 2^24. -/
theorem test_trunc_and_fp :
    trunc .binary32 (.fin true (3 * 2 ^ 148)) = -1 ∧
    fp .binary32 16777217 = fp .binary32 16777216 := by decide +kernel

/-! ## TICK: first frames of the programs of Part 3 -/

/-- P4: the saturation order, and the phase of channel 0. -/
theorem test_tick_saturationOrder :
    let s := toneWrite .tri 0x5622#32 1#32 0x64#32 0x12#32
      (toneWrite .p1 0x1B8#32 1#32 0x64#32 1#32
        (toneWrite .p0 0x1B8#32 1#32 0x64#32 0#32 (inited 44100 0x7FFF 0x7FFF)))
    pairs (tickOf s) = [(0, 32767)] ∧
    fpBits .binary32 (tickOf s).ch0.phase = some 0x3C2377EE := by decide +kernel
/-- P3: one LFSR step, the sample on the right only. -/
theorem test_tick_noise :
    let s := toneWrite .noise 0x3E8#32 1#32 0x64#32 0x23#32 s441
    (pairs (tickOf s), (tickOf s).seed, (tickOf s).time.toNat) =
      ([(0, 4915)], 0x0201#16, 1) := by decide +kernel
/-! ## The syntax of R72 and the output bytes -/

/-- Program P1's TONE line. -/
theorem test_assembleText :
    (match assembleText
      ['T', 'O', 'N', 'E', ' ', 'F', 'R', 'E', 'Q', '(', '1', '0', '0', ',', '0', ')', ',', ' ',
       '0', 'x', '1', ',', ' ', 'V', 'O', 'L', '(', '0', ',', '1', '0', '0', ')', ',', ' ', 'F',
       'L', 'A', 'G', 'S', '(', '0', ',', '2', ',', '1', ')', ' ', ';', ' ', 'x'] with
     | .ok ws => ws
     | .error _ => []) = [0x1_00000018_00000064_00000001_00000064#130] := by decide
/-- A frame (4915, -1) in little-endian bytes, left first. -/
theorem test_outputBytes :
    outputBytes { s441 with frames := [{ left := 0x1333#16, right := 0xFFFF#16 }] } =
      [0x33#8, 0x13#8, 0xFF#8, 0xFF#8] := by decide

end Sys2Proof.Tests
end

