-- ==== Sys2Proof/Tests/Witness.lean ====
section
/-!
SUPPORT. A named witness for every statement that has hypotheses: concrete states and operands that
meet all of them together, at a boundary where the range has one.
-/

namespace Sys2Proof.Tests

open Sys2Proof Sys2Proof.Machine Sys2Proof.Claims

/-- An answer is a next state. -/
def isNext : Answer → Bool
  | .next _ => true
  | .fault _ => false
  | .refused _ => false

theorem exists_next {a : Answer} (h : isNext a = true) : ∃ t, a = .next t := by
  cases a with
  | next t => exact ⟨t, rfl⟩
  | fault r => exact absurd h (by simp [isNext])
  | refused r => exact absurd h (by simp [isNext])

/-- All four channels sounding at SR 44100 with the default volumes. -/
def sounding : State :=
  toneWrite .noise 1000#32 1#32 100#32 0x23#32 (toneWrite .tri 441#32 1#32 100#32 2#32
    (toneWrite .p1 440#32 1#32 100#32 5#32 (toneWrite .p0 440#32 1#32 100#32 4#32 s441)))

/-- The lowest noise increment: 1 Hz at the highest sample rate, full envelope length. -/
def slowNoise : State :=
  toneWrite .noise 1#32 0xFF#32 100#32 3#32 (inited 16777215 0x1333 0x2000)

/-- One operation pending. -/
def pending (w : OpBits) (s : State) : State := { s with ops := [w] }

/-- A state whose channel 0 went idle at time 100 with a phase of 0.3. -/
def idleAt101 : State :=
  { s441 with
    time := 101#64
    ch0 := { Channel.cleared with releaseTime := 100#64, phase := dec 3 10 } }

/-- A time whose all-ones TONE on channel 0 ends exactly at 2^64 - 1 (table 2.2). -/
def lastAccepted : State := { s441 with time := BitVec.ofNat 64 (2 ^ 64 - 749701) }

/-- The last time at which a TICK is not refused. -/
def lastTick : State := { s441 with time := BitVec.ofNat 64 (2 ^ 64 - 2) }

/-- A TICK, the TONE of program P1 and an INIT, as words (95_test_vectors.md Part 3). -/
def tickWord : OpBits := 0x0_00000000_00000000_00000000_00000000#130
def toneWord : OpBits := 0x1_00000018_00000064_00000001_00000064#130
def initWord : OpBits := 0x2_00000000_00002000_00001333_0000AC44#130

theorem witness_DecodeOfEncode :
    ∀ i ∈ [Instr.tick 1#32 2#32 3#32 4#32, .toneP0 1#32 2#32 3#32 0xFFFFFFFC#32,
      .toneP1 1#32 2#32 3#32 0xFFFFFFFD#32, .toneTri 1#32 2#32 3#32 0xFFFFFFFE#32,
      .toneNoise 1#32 2#32 3#32 0xFFFFFFFF#32, .init 1#32 2#32 3#32 4#32,
      .reserved 1#32 2#32 3#32 4#32], i.wellFormed = true := by decide

theorem witness_MacrosFillTheirFields :
    65535 < 2 ^ 16 ∧ 255 < 2 ^ 8 ∧ 3 < 2 ^ 2 := by decide

theorem witness_StepRunsTheDecodedOperation :
    (pending tickWord s441).ops = tickWord :: [] ∧ s441.ops = [] := by decide

theorem witness_PlacedWordRunsNext :
    decodeTableWord 40 0x3FFFFFFFF = some (.reserved 0#32 0#32 0#32 0xFFFFFFFF#32) ∧
    decodeTableWord 136 0x1_00000018_00000064_00000001_00000064 =
      some (.toneP0 0x64#32 0x1#32 0x64#32 0x18#32) := by decide

theorem witness_StepKeepsLegalStates :
    LegalState (pending tickWord sounding) ∧ ∃ t, step (pending tickWord sounding) = .next t :=
  ⟨by decide +kernel, exists_next (by decide +kernel)⟩

theorem witness_LegalStatesNeverFault : LegalState sounding ∧ sounding.inited = true := by decide +kernel

/-- The hypotheses are met at 1 Hz and the highest sample rate. -/
theorem witness_NoisePhaseStaysAboveMinusOne :
    LegalState (pending tickWord slowNoise) ∧ (pending tickWord slowNoise).inited = true ∧
    (pending tickWord slowNoise).ch3.phase ≠ .fin true (oneMag .binary32) ∧
    ∃ t, step (pending tickWord slowNoise) = .next t :=
  ⟨by decide +kernel, by decide +kernel, by decide +kernel, exists_next (by decide +kernel)⟩

theorem witness_InitConfiguresAndResets :
    (999#32).toNat < 1000 ∧ 16777215 < (16777216#32).toNat ∧
    32767 < (0x8000#32).toNat % 2 ^ 16 ∧ LegalInit 1000#32 0x7FFF#32 0x7FFF#32 ∧
    LegalInit 16777215#32 0xFFFF0000#32 0#32 := by decide

theorem witness_InitForgetsTheState :
    sounding ≠ s441 ∧ sounding.config = s441.config ∧ sounding.ops = s441.ops ∧
    sounding.frames = s441.frames := by decide +kernel

/-- For ToneSetsMarkers, ToneScalesVolumes, ToneSetsDutyCycle, ToneSetsFrequenciesAndPan and the second
clause of ToneTouchesOneChannel: each row accepted, channel 0 at the last time it can be. -/
theorem witness_Accepts :
    Accepts .p0 lastAccepted 0xFFFFFFFF#32 ∧ releaseEnd .p0 lastAccepted 0xFFFFFFFF#32 = 2 ^ 64 - 1 ∧
    Accepts .p1 s441 0#32 ∧ Accepts .tri s441 0#32 ∧ Accepts .noise s441 0x00000100#32 := by decide

/-- Both sides of the idle test. -/
theorem witness_ToneRetriggersIdleChannels :
    (Accepts .p0 idleAt101 1#32 ∧ (chan idleAt101 .p0).releaseTime.toNat < idleAt101.time.toNat) ∧
    Accepts .tri s441 1#32 ∧ ¬ (chan s441 .tri).releaseTime.toNat < s441.time.toNat := by
  decide +kernel

/-- For the first clause of ToneTouchesOneChannel and of TickAndToneWriteOnlyTheirOwn. -/
theorem witness_ToneTouchesOneChannel :
    ∀ i ∈ [Chan.p0, .p1, .tri, .noise],
      ∃ t, exec (toneOf i 440#32 1#32 100#32 4#32) s441 = .next t := by
  intro i hi
  exact exists_next (by revert i; decide +kernel)

theorem witness_SecondToneOverwritesFirst :
    ∃ t, exec (toneOf .p0 440#32 1#32 100#32 4#32) idleAt101 = .next t :=
  exists_next (by decide +kernel)

theorem witness_TickCompletes :
    (LegalState sounding ∧ sounding.inited = true ∧ sounding.time.toNat < 2 ^ 64 - 1) ∧
    LegalState lastTick ∧ lastTick.inited = true ∧ lastTick.time.toNat < 2 ^ 64 - 1 :=
  ⟨by decide +kernel, by decide +kernel⟩

theorem witness_SilentTick :
    s441.inited = true ∧ s441.time.toNat < 2 ^ 64 - 1 ∧
    ¬ Sounds s441 .p0 ∧ ¬ Sounds s441 .p1 ∧ ¬ Sounds s441 .tri ∧ ¬ Sounds s441 .noise := by decide

theorem witness_TickMixesInIndexOrder :
    (Sounds sounding .p0 ∧ Sounds sounding .p1 ∧ Sounds sounding .tri ∧ Sounds sounding .noise) ∧
    ∃ t, exec (.tick 0#32 0#32 0#32 0#32) sounding = .next t :=
  ⟨by decide +kernel, exists_next (by decide +kernel)⟩

/-- For the clauses of TickAndToneWriteOnlyTheirOwn about TICK. -/
theorem witness_TickAndToneWriteOnlyTheirOwn :
    (∃ t, exec (.tick 0#32 0#32 0#32 0#32) s441 = .next t) ∧ ¬ Sounds s441 .noise :=
  ⟨exists_next (by decide +kernel), by decide⟩

theorem witness_NoSaturationBelowFullScale :
    LegalState sounding ∧ 3 * sounding.cfgMAXV.toNat + sounding.cfgMAXVTRI.toNat ≤ 32767 ∧
    ∃ t, exec (.tick 0#32 0#32 0#32 0#32) sounding = .next t :=
  ⟨by decide +kernel, by decide +kernel, exists_next (by decide +kernel)⟩

/-- Two TICKs from a sounding state. -/
theorem witness_WriteSamplesEmitsItsCount :
    LegalState sounding ∧ sounding.inited = true ∧ sounding.time.toNat + 2 ≤ 2 ^ 64 - 1 := by decide +kernel

theorem witness_SilenceAfterInit :
    ∃ t, exec (.init 44100#32 0x1333#32 0x2000#32 0#32) sounding = .next t :=
  exists_next (by decide +kernel)

/-- One step of each clause, and the top of time. -/
theorem witness_TimeWriters :
    (opField tickWord = 0#2 ∧ ∃ t, step (pending tickWord s441) = .next t) ∧
    (opField toneWord = 1#2 ∧ ∃ t, step (pending toneWord s441) = .next t) ∧
    (opField initWord = 2#2 ∧ ∃ t, step (pending initWord s441) = .next t) ∧
    (pending tickWord { s441 with time := BitVec.allOnes 64 }).time.toNat = 2 ^ 64 - 1 ∧
    (pending tickWord { s441 with time := BitVec.allOnes 64 }).inited = true :=
  ⟨⟨by decide, exists_next (by decide +kernel)⟩, ⟨by decide, exists_next (by decide +kernel)⟩,
    ⟨by decide, exists_next (by decide +kernel)⟩, by decide, by decide⟩

theorem witness_InitedIsNeverCleared :
    State.reset.inited = false ∧ (stateOf (step (pending initWord State.reset))).inited = true ∧
    ∃ t, step (pending initWord State.reset) = .next t :=
  ⟨by decide, by decide +kernel, exists_next (by decide +kernel)⟩

/-- A phase changed by INIT, by TONE of an idle channel and by TICK of a sounding one. -/
theorem witness_PhaseWriters :
    (stateOf (step (pending initWord idleAt101))).ch0.phase ≠ idleAt101.ch0.phase ∧
    (stateOf (step (pending toneWord idleAt101))).ch0.phase ≠ idleAt101.ch0.phase ∧
    (stateOf (step (pending tickWord sounding))).ch0.phase ≠ sounding.ch0.phase := by
  decide +kernel

theorem witness_LfsrWriters :
    (∃ t, step (pending tickWord sounding) = .next t) ∧
    (stateOf (step (pending tickWord sounding))).seed ≠ sounding.seed :=
  ⟨exists_next (by decide +kernel), by decide +kernel⟩

theorem witness_ParametersAndFramesAreKept : ∃ t, step (pending tickWord sounding) = .next t :=
  exists_next (by decide +kernel)

/-- One completing operation of each clause with other ignored bits. -/
theorem witness_IgnoredBitsHaveNoEffect :
    (∃ t, exec (.tick 0#32 0#32 0#32 0#32) s441 = .next t) ∧
    ((0xFFFF0064#32).toNat % 2 ^ 16 = (0x64#32).toNat % 2 ^ 16 ∧
      (0xFFFFFFC1#32).toNat % 2 ^ 6 = (1#32).toNat % 2 ^ 6 ∧
      ∃ t, exec (toneOf .p1 440#32 1#32 0x64#32 1#32) s441 = .next t) ∧
    ((0xFFFF1333#32).toNat % 2 ^ 16 = (0x1333#32).toNat % 2 ^ 16 ∧
      ∃ t, exec (.init 44100#32 0x1333#32 0x2000#32 0#32) s441 = .next t) :=
  ⟨exists_next (by decide +kernel), ⟨by decide, by decide, exists_next (by decide +kernel)⟩, by decide,
    exists_next (by decide +kernel)⟩

/-- A tie: 2^24 + 1 lies midway between the fitting 2^24 and 2^24 + 2. -/
theorem witness_RoundsToNearestEven :
    Fits 24 (2 ^ 24 + 2) ∧ ¬ Fits 24 (2 ^ 24 + 1) ∧ roundMag 24 (2 ^ 24 + 1) 1 = 2 ^ 24 := by decide

/-- For RampStaysBetweenItsEnds, RampIsMonotone and RampMeetsItsEnds: a = 4915, b = 0, times 0, 1, 3. -/
theorem witness_Ramp :
    (4915 : Int).natAbs ≤ 65535 ∧ (0 : Int).natAbs ≤ 65535 ∧ 0 ≤ 1 ∧ 1 ≤ 3 ∧ 0 < 3 ∧
    3 < 2 ^ 64 ∧ (0 : Int) ≤ 4915 := by decide

/-- For FrequencyAndVolumeInRange, EnvelopeAtTheMarkers and EnvelopeShape: the voice of E3, every phase
nonempty. -/
theorem witness_Envelope :
    let c := (toneWrite .p0 0x037001B8#32 0x0A050814#32 0x00006432#32 0#32 s441).ch0
    Ordered c ∧ c.startTime.toNat ≤ 0 ∧ 0 < c.releaseTime.toNat ∧ c.peakVolume.toNat ≤ 32767 ∧
    c.sustainVolume.toNat ≤ 32767 ∧ c.startTime.toNat < c.attackTime.toNat ∧
    c.attackTime.toNat < c.decayTime.toNat ∧ c.decayTime.toNat < c.sustainTime.toNat ∧
    c.sustainTime.toNat < c.releaseTime.toNat := by decide

/-- A voice with a given W0, and the envelope of E3. -/
def sweepVoice (w0 : Word) : Channel :=
  (toneWrite .p0 w0 0x0A050814#32 0x00006432#32 0#32 s441).ch0

/-- A voice with its markers in order, its first sample time 0 and its last 31604. -/
def sweepsTo (c : Channel) (f1 f2 : Nat) : Bool :=
  decide (Ordered c) && c.startTime.toNat == 0 && c.releaseTime.toNat == 31605 &&
    c.freq1.toNat == f1 && c.freq2.toNat == f2

/-- For the clauses of FrequencyAndVolumeInRange: a sweep up, a sweep down and no sweep. -/
theorem witness_FrequencyClauses :
    sweepsTo (sweepVoice 0x037001B8#32) 440 880 = true ∧
    sweepsTo (sweepVoice 0x01B80370#32) 880 440 = true ∧
    sweepsTo (sweepVoice 0x000001B8#32) 440 0 = true := by decide +kernel

/-- For TickAdvancesSoundingGenerators: all channels sounding, and none. -/
theorem witness_TickAdvancesSoundingGenerators :
    ((∀ i ∈ [Chan.p0, .p1, .tri, .noise], Sounds sounding i) ∧
      ∃ t, exec (.tick 0#32 0#32 0#32 0#32) sounding = .next t) ∧
    (∀ i ∈ [Chan.p0, .p1, .tri, .noise], ¬ Sounds s441 i) ∧
      ∃ t, exec (.tick 0#32 0#32 0#32 0#32) s441 = .next t :=
  ⟨⟨by decide +kernel, exists_next (by decide +kernel)⟩, by decide, exists_next (by decide +kernel)⟩

/-- A state at the top of time. -/
def topOfTime : State := { s441 with time := BitVec.allOnes 64 }

/-- For TickAnswersExactly, a state of each clause: before INIT, at the top of time, and below it. -/
theorem witness_TickAnswersExactly :
    State.reset.inited = false ∧
    (topOfTime.inited = true ∧ topOfTime.time.toNat = 2 ^ 64 - 1) ∧
    (LegalState sounding ∧ sounding.inited = true ∧ sounding.time.toNat < 2 ^ 64 - 1) ∧
    LegalState lastTick ∧ lastTick.inited = true ∧ lastTick.time.toNat < 2 ^ 64 - 1 :=
  ⟨by decide, by decide, witness_TickCompletes⟩

/-- The increment of 1 Hz at the highest rate, in units: the binary32 quotient of 1 and K * 16777215. -/
def tinyMag : Nat := 0xB4A234 * 2 ^ 97

/-- For NoiseSample and NoisePhaseLeavesR30OnlyByRounding: at 1 Hz and the highest rate the incremented
accumulator from 0 is positive and below 2^-25, from -1 it stays -1, and at 1000 Hz and SR 44100 it is 1,
which one pass takes to 0. -/
theorem witness_noiseAccumulator :
    0 < tinyMag ∧ tinyMag * 2 ^ (prec .binary32 + 1) ≤ oneMag .binary32 ∧
    accumulatorAfter .binary32 16777215#32 1 fpZero 0 = .fin false tinyMag ∧
    accumulatorAfter .binary32 16777215#32 1 (.fin true (oneMag .binary32)) 0 =
      .fin true (oneMag .binary32) ∧
    accumulatorAfter .binary32 44100#32 1000 fpZero 0 = fpOne .binary32 ∧
    accumulatorAfter .binary32 44100#32 1000 fpZero 1 = fpZero ∧
    (noiseAdvance .binary32 16777215#32 1
      { phase := fpZero, seed := 1#16, lastRandom := .zero }).isSome = true ∧
    LegalRate 16777215#32 ∧ LegalRate 44100#32 ∧ LegalFreq 1 ∧ LegalFreq 1000 := by
  decide +kernel

/-- For NoisePhaseStaysInR30IntervalOtherwise: the exception is met at 1 Hz and the highest rate. -/
theorem witness_NoisePhaseStaysInR30IntervalOtherwise :
    LegalState (pending tickWord slowNoise) ∧
    (pending tickWord slowNoise).ch3.phase ≠ .fin true (oneMag .binary32) ∧
    (stateOf (step (pending tickWord slowNoise))).ch3.phase = .fin true (oneMag .binary32) ∧
    ∃ t, step (pending tickWord slowNoise) = .next t :=
  ⟨by decide +kernel, by decide +kernel, by decide +kernel, exists_next (by decide +kernel)⟩

/-- For AdvanceWrapsIntoUnit, LoopBounds, PulseSampleWithinVolume, PulseHeldAtZeroFrequency, TriangleShape
and NoiseSample: both ends of the ranges. -/
theorem witness_Oscillators :
    LegalRate 1000#32 ∧ LegalRate 16777215#32 ∧ LegalFreq 0 ∧ LegalFreq 65535 ∧
    tonalPhaseOk .binary32 fpZero = true ∧ tonalPhaseOk .binary64 (fpHalf .binary64) = true ∧
    noisePhaseOk .binary32 fpZero = true ∧
    noisePhaseOk .binary32 (.fin true (oneMag .binary32)) = true ∧
    DutyOk .binary32 (fpEighth .binary32) ∧ DutyOk .binary32 (fpHalf .binary32) := by
  decide +kernel

/-- For AdvanceWrapsIntoUnit: no pass from 0 at 440 Hz, and one exactly at 1. -/
theorem witness_AdvancePasses :
    flt (phaseAfter .binary32 44100#32 440 fpZero 0) (fp .binary32 1) = true ∧
    fle (fp .binary32 1) (phaseAfter .binary32 1000#32 500 (fpHalf .binary32) 0) = true ∧
    flt (phaseAfter .binary32 1000#32 500 (fpHalf .binary32) 1) (fp .binary32 1) = true := by
  decide +kernel

/-- For PulseSampleWithinVolume: a phase in the high segment, and one exactly at its end. -/
theorem witness_PulseSegments :
    flt fpZero (fpQuarter .binary32) = true ∧
    flt (fpQuarter .binary32) (fpQuarter .binary32) = false := by decide +kernel

/-- Each clause of POLYBLEP's ladder with dp = 0.25: the first window from p = 0, the interior at p = dp
and at p = 1 - dp, the second window at p = 1. -/
theorem witness_PolyblepStaysInUnit :
    (InUnit .binary32 fpZero ∧ InUnit .binary32 (fpQuarter .binary32) ∧
      InUnit .binary32 (.fin false (3 * 2 ^ 147)) ∧ InUnit .binary32 (fpOne .binary32)) ∧
    representable .binary32 (.fin false (2 ^ 147)) = true ∧
    (flt fpZero (.fin false (2 ^ 147)) = true ∧ 0 < 2 ^ 147) ∧
    (flt (.fin false (2 ^ 147)) (.fin false (2 ^ 147)) = false ∧
      flt (fsub .binary32 (fp .binary32 1) (.fin false (2 ^ 147))) (.fin false (2 ^ 147)) = false ∧
      fle (.fin false (2 ^ 147)) (fsub .binary32 (fp .binary32 1) (.fin false (2 ^ 147))) = true) ∧
    (flt (.fin false (3 * 2 ^ 147)) (.fin false (2 ^ 147)) = false ∧
      flt (fsub .binary32 (fp .binary32 1) (.fin false (2 ^ 147))) (.fin false (3 * 2 ^ 147)) =
        false) ∧
    flt (fpOne .binary32) (.fin false (2 ^ 147)) = false ∧
    flt (fsub .binary32 (fp .binary32 1) (.fin false (2 ^ 147))) (fpOne .binary32) = true := by
  have hz : InUnit .binary32 fpZero := ⟨by decide +kernel, 0, Nat.zero_le _, rfl⟩
  have hq : InUnit .binary32 (fpQuarter .binary32) := ⟨by decide +kernel, _, by decide +kernel, rfl⟩
  have hf : InUnit .binary32 (.fin false (3 * 2 ^ 147)) :=
    ⟨by decide +kernel, _, by decide +kernel, rfl⟩
  have ho : InUnit .binary32 (fpOne .binary32) := ⟨by decide +kernel, _, le_rfl, rfl⟩
  exact ⟨⟨hz, hq, hf, ho⟩, by decide +kernel⟩

/-- One frame and its second sample. -/
theorem witness_OutputSerialisation :
    ({ s441 with frames := [{ left := 1#16, right := 2#16 }] } : State).frames[0]? =
      some { left := 1#16, right := 2#16 } ∧
    (outputSamples { s441 with frames := [{ left := 1#16, right := 2#16 }] })[1]? = some 2#16 := by
  decide

/-- For PrimitivesRoundOnce, LfsrIsBijective and LfsrHasFullPeriod: a nonzero divisor, two seeds with
one image, a nonzero seed. -/
theorem witness_Arithmetic : (1 : Nat) ≠ 0 ∧ lfsrNext 5#16 = lfsrNext 5#16 ∧ (0xFFFF#16) ≠ 0#16 := by
  decide

end Sys2Proof.Tests
end

section
/-!
SUPPORT. The scope statements: what every step keeps (R16, R20, R55), rounding and the floating-point
primitives (R10, R15), and the output stream (R11, R52, R145). Each part is a layer of lemmas about the
model's functions and then the theorem that settles the statement.
-/

namespace Sys2Proof.Machine

open Sys2Proof.Claims

/-! ## Rounding to nearest, ties to even -/

section nearest
variable {num den : Nat} (hd : 0 < den)
include hd

/-- The rounded quotient is at most half the divisor away, and even where it is exactly half away. -/
theorem roundDiv_close :
    2 * ((roundDiv num den * den : Int) - num).natAbs ≤ den ∧
    (2 * ((roundDiv num den * den : Int) - num).natAbs = den → roundDiv num den % 2 = 0) := by
  have hnum := Nat.div_add_mod' num den
  have hrem := Nat.mod_lt num hd
  have hnext : (num / den + 1) * den = num / den * den + den := Nat.succ_mul _ _
  rw [← Nat.cast_mul]
  simp only [roundDiv]
  split
  · rw [hnext]; omega
  · omega

/-- No multiple of `den` is nearer to `num` than the rounded quotient's; where another is as near, the
rounded quotient is even. -/
theorem roundDiv_nearest (c : Nat) :
    ((roundDiv num den * den : Int) - num).natAbs ≤ ((c * den : Int) - num).natAbs ∧
    (((roundDiv num den * den : Int) - num).natAbs = ((c * den : Int) - num).natAbs →
      c ≠ roundDiv num den → roundDiv num den % 2 = 0) := by
  obtain ⟨hclose, heven⟩ := roundDiv_close (num := num) hd
  rcases eq_or_ne c (roundDiv num den) with rfl | hne
  · exact ⟨le_rfl, fun _ h => absurd rfl h⟩
  have hapart : (c + 1) * den ≤ roundDiv num den * den ∨ (roundDiv num den + 1) * den ≤ c * den :=
    (Nat.lt_or_gt_of_ne hne).imp (Nat.mul_le_mul_right den) (Nat.mul_le_mul_right den)
  rw [Nat.succ_mul, Nat.succ_mul] at hapart
  rw [← Nat.cast_mul] at hclose heven
  rw [← Nat.cast_mul, ← Nat.cast_mul]
  omega

end nearest

/-- A magnitude that fits in `p` bits is a multiple of `2 ^ e` or lies below every magnitude that loses `e`
bits. -/
theorem FitsBits.dvd_or_lt {p k : Nat} (hp : 1 ≤ p) (hk : FitsBits p k) (e : Nat) :
    2 ^ e ∣ k ∨ 0 < e ∧ k < 2 ^ (p - 1) * 2 ^ e := by
  rcases Nat.lt_or_ge (excessBits p k) e with h | h
  · refine .inr ⟨Nat.zero_lt_of_lt h, ?_⟩
    calc k < 2 ^ p * 2 ^ excessBits p k := lt_two_pow_excess k hp
      _ = 2 ^ (p - 1) * 2 ^ (excessBits p k + 1) := by
          rw [← Nat.pow_add, ← Nat.pow_add]; congr 1; omega
      _ ≤ 2 ^ (p - 1) * 2 ^ e := Nat.mul_le_mul_left _ (Nat.pow_le_pow_right two_pos h)
  · exact .inl (dvd_trans (pow_dvd_pow 2 h) hk)

/-- The last significant bit of an even `p`-bit multiple of a power of two is 0, also where the multiple
is `2 ^ p` and one more bit is lost. -/
theorem lastBit_eq_zero_of_even {p j e : Nat} (hp : 2 ≤ p) (hj : j ≤ 2 ^ p)
    (he : 0 < e → 2 ^ (p - 1) ≤ j) (heven : j % 2 = 0) :
    j * 2 ^ e / 2 ^ excessBits p (j * 2 ^ e) % 2 = 0 := by
  have hpow : 2 ^ (p - 1) * 2 = 2 ^ p := Nat.pow_pred_mul (by omega)
  rcases hj.lt_or_eq with hlt | rfl
  · have hexcess : excessBits p (j * 2 ^ e) = e := by
      rcases Nat.eq_zero_or_pos e with rfl | hpos
      · exact excessBits_of_lt (by omega) (by simpa using hlt)
      · exact excessBits_eq (by omega) (Nat.mul_le_mul_right _ (he hpos))
          (Nat.mul_lt_mul_of_pos_right hlt (by positivity))
    rwa [hexcess, Nat.mul_div_cancel _ (by positivity)]
  · have hcarry : 2 ^ p * 2 ^ e = 2 ^ (p - 1) * 2 ^ (e + 1) := by rw [← hpow]; ring
    have hexcess : excessBits p (2 ^ p * 2 ^ e) = e + 1 :=
      excessBits_eq (by omega) hcarry.ge
        (Nat.mul_lt_mul_of_pos_left (Nat.pow_lt_pow_right one_lt_two e.lt_succ_self) (by positivity))
    rw [hexcess, hcarry, Nat.mul_div_cancel _ (by positivity)]
    exact Nat.mod_eq_zero_of_dvd (dvd_pow_self 2 (by omega))

/-- No fitting magnitude is nearer to the exact quotient than the rounded one; where another is as near,
the last significant bit of the rounded one is 0. -/
theorem roundMag_nearest {p num den k : Nat} (hp : 2 ≤ p) (hd : 0 < den) (hk : FitsBits p k) :
    ((roundMag p num den * den : Int) - num).natAbs ≤ ((k * den : Int) - num).natAbs ∧
    (((roundMag p num den * den : Int) - num).natAbs = ((k * den : Int) - num).natAbs →
      k ≠ roundMag p num den →
      roundMag p num den / 2 ^ excessBits p (roundMag p num den) % 2 = 0) := by
  have hp1 : 1 ≤ p := by omega
  have hquot := roundMag_quot_le (num := num) hp1 hd
  have hbinade := le_roundMag_quot (num := num) hp1 hd
  have hlow h := (Nat.le_div_iff_mul_le hd).1 (excessBits_bounds (q := num / den) hp1 h).1
  unfold roundMag
  generalize excessBits p (num / den) = e at *
  generalize hj : roundDiv num (den * 2 ^ e) = j at *
  have hgrid (c : Nat) : (((c * 2 ^ e : Nat) * den : Int)) = c * (den * 2 ^ e : Nat) := by
    push_cast; ring
  have hnear (c : Nat) := hj ▸ roundDiv_nearest (num := num) (den := den * 2 ^ e) (by positivity) c
  rcases hk.dvd_or_lt hp1 e with ⟨c, rfl⟩ | ⟨hpos, hlt⟩
  · obtain ⟨hle, htie⟩ := hnear c
    rw [Nat.mul_comm (2 ^ e) c, hgrid, hgrid]
    exact ⟨hle, fun heq hne =>
      lastBit_eq_zero_of_even hp hquot hbinade (htie heq fun h => hne (by rw [h]))⟩
  · have hle := (hnear (2 ^ (p - 1))).1
    have hbelow := Nat.mul_lt_mul_of_pos_right hlt hd
    have hbinadeLow := hlow hpos
    rw [← hgrid, ← hgrid] at hle
    rw [← Nat.cast_mul] at *
    omega

theorem limitMag_eq (m : FpFormat) : limitMag m = 2 ^ topExp m * oneMag m := Nat.pow_add ..

/-- Settles O39: fitting magnitudes are multiples of the rounding step or lie a binade lower. -/
theorem roundsToNearestEven : Obligations.RoundsToNearestEven := by
  have hfits (m : FpFormat) (k : Nat) : Fits (prec m) k ↔ FitsBits (prec m) k :=
    Nat.dvd_iff_mod_eq_zero.symm
  refine ⟨fun m num den hd => ⟨?_, fun k hk => ?_⟩, ⟨rfl, rfl, rfl⟩, ?_, ?_⟩
  · exact (hfits m _).2 (roundMag_fits (one_le_prec m) hd)
  · exact roundMag_nearest (le_trans (by norm_num) (prec_ge_24 m)) hd ((hfits m k).1 hk)
  · simp only [oneMag, unitExp, and_self]
  · simp only [limitMag_eq, topExp, and_self]

/-! ## The floating-point primitives -/

/-- What it is to be the exact value `z`, in units, rounded once: the rounded magnitude with the sign of
`z`, or an infinity of that sign past the range. The sign of a zero is free. -/
def RoundedOnce (m : FpFormat) (z : Int) (x : Fp) : Prop :=
  if limitMag m ≤ roundMag (prec m) z.natAbs 1 then x = .inf (decide (z < 0))
  else ∃ n, x = .fin n (roundMag (prec m) z.natAbs 1) ∧
    signedMag n (roundMag (prec m) z.natAbs 1) = z.sign * roundMag (prec m) z.natAbs 1

theorem roundTo_eq (m : FpFormat) (neg : Bool) (num den : Nat) :
    roundTo m neg num den = if limitMag m ≤ roundMag (prec m) num den then .inf neg
      else .fin neg (roundMag (prec m) num den) := rfl

theorem roundMag_zero (p : Nat) : roundMag p 0 1 = 0 := by
  simp [roundMag, roundDiv]

theorem limitMag_pos (m : FpFormat) : 0 < limitMag m := Nat.two_pow_pos _

theorem roundTo_zero (m : FpFormat) (n : Bool) : roundTo m n 0 1 = .fin n 0 := by
  rw [roundTo_eq, roundMag_zero, if_neg (limitMag_pos m).not_ge]

theorem signedMag_zero (n : Bool) : signedMag n 0 = 0 := by cases n <;> rfl

theorem signedMag_not (n : Bool) (a : Nat) : signedMag (!n) a = -signedMag n a := by
  cases n <;> simp

theorem signedMag_add (n : Bool) (a b : Nat) :
    signedMag n (a + b) = signedMag n a + signedMag n b := by
  cases n <;> simp [add_comm]

theorem signedMag_sub {n : Bool} {a b : Nat} (h : b ≤ a) :
    signedMag n (a - b) = signedMag n a - signedMag n b := by
  cases n
  · exact Nat.cast_sub h
  · rw [signedMag_true, signedMag_true, signedMag_true, Nat.cast_sub h, neg_sub_neg, neg_sub]

/-- Either zero is the exact value 0 rounded once. -/
theorem roundedOnce_zero (m : FpFormat) (n : Bool) : RoundedOnce m 0 (.fin n 0) := by
  rw [RoundedOnce, Int.natAbs_zero, roundMag_zero, if_neg (limitMag_pos m).not_ge]
  exact ⟨n, rfl, signedMag_zero n⟩

/-- A sign and a magnitude rounded are the value they give rounded once. -/
theorem roundedOnce_roundTo (m : FpFormat) (n : Bool) (a : Nat) :
    RoundedOnce m (signedMag n a) (roundTo m n a 1) := by
  rcases Nat.eq_zero_or_pos a with rfl | ha
  · rw [signedMag_zero, roundTo_zero]
    exact roundedOnce_zero m n
  have habs : (signedMag n a).natAbs = a := by cases n <;> simp
  have hneg : decide (signedMag n a < 0) = n := by
    cases n
    · exact decide_eq_false (by simp)
    · exact decide_eq_true (by simpa using ha)
  have hsign (r : Nat) : signedMag n r = (signedMag n a).sign * r := by
    cases n <;> simp [Int.sign_natCast_of_ne_zero ha.ne']
  rw [RoundedOnce, habs, hneg, roundTo_eq]
  split
  · rfl
  · exact ⟨n, rfl, hsign _⟩

/-- The sum of two finite values is the exact sum rounded once (R10, R15): signs that agree add the
magnitudes, signs that differ subtract the smaller from the larger. -/
theorem faddFin_roundedOnce (m : FpFormat) (n1 n2 : Bool) (a b : Nat) :
    RoundedOnce m (signedMag n1 a + signedMag n2 b) (faddFin m n1 a n2 b) := by
  rcases eq_or_ne n1 n2 with rfl | hn
  · rw [faddFin_same, ← signedMag_add]
    exact roundedOnce_roundTo m n1 (a + b)
  obtain rfl : n2 = !n1 := Bool.eq_not_of_ne hn.symm
  rw [signedMag_not, ← sub_eq_add_neg]
  rcases lt_trichotomy a b with h | rfl | h
  · rw [faddFin_lt m hn h, ← neg_sub, ← signedMag_sub h.le, ← signedMag_not]
    exact roundedOnce_roundTo m (!n1) (b - a)
  · rw [faddFin_cancel m _ hn, sub_self]
    exact roundedOnce_zero m false
  · rw [faddFin_gt m hn h, ← signedMag_sub h.le]
    exact roundedOnce_roundTo m n1 (a - b)

/-- `trunc` is division toward zero, for both signs (R15). -/
theorem trunc_eq_tdiv (m : FpFormat) (n : Bool) (a : Nat) :
    trunc m (.fin n a) = Int.tdiv (signedMag n a) (oneMag m) := by
  cases n
  · rfl
  · rw [trunc_fin, signedMag_true, signedMag_true, Int.neg_tdiv]
    rfl

/-- Settles O40: a difference is the sum with the second sign flipped; the other clauses are the model's
equations on finite values. -/
theorem primitivesRoundOnce : Obligations.PrimitivesRoundOnce := by
  intro m n1 n2 a b
  refine ⟨faddFin_roundedOnce m n1 n2 a b, ?_, rfl, fun hb => fdiv_fin m n1 n2 a hb, fun n => rfl, rfl,
    by simp, by simp, trunc_eq_tdiv m n1 a⟩
  have h := faddFin_roundedOnce m n1 (!n2) a b
  rwa [signedMag_not, ← sub_eq_add_neg] at h

/-! ## What every step keeps -/

/-- What every operation keeps: the parameters, the frames already emitted and the pending operations. -/
def KeepsStreams (s t : State) : Prop :=
  t.config = s.config ∧ (∃ fs, t.frames = s.frames ++ fs) ∧ t.ops = s.ops

/-- The channel loop leaves the parameters, the streams, the registers and the time. -/
theorem mixVoices_fields {l : List Chan} {t : BitVec 64} {s s' : State} {acc acc' : Frame}
    (h : mixVoices t l s acc = some (s', acc')) :
    s'.config = s.config ∧ s'.ops = s.ops ∧ s'.frames = s.frames ∧ s'.cfgSR = s.cfgSR ∧
    s'.cfgMAXV = s.cfgMAXV ∧ s'.cfgMAXVTRI = s.cfgMAXVTRI ∧ s'.time = s.time ∧
    s'.inited = s.inited ∧ s'.duty0 = s.duty0 ∧ s'.duty1 = s.duty1 := by
  induction l generalizing s acc with
  | nil =>
    cases h
    simp
  | cons i rest ih =>
    obtain ⟨s1, acc1, hi, hrest⟩ := mixVoices_cons.1 h
    simpa [mixVoice_fields hi] using ih hrest

theorem execTick_keepsStreams {w0 w1 w2 w3 : Word} {s t : State}
    (h : execTick w0 w1 w2 w3 s = .next t) : KeepsStreams s t := by
  obtain ⟨-, -, hrun⟩ := execTick_eq_next.1 h
  obtain ⟨s', f, hmix, rfl⟩ := tickRun_eq_next.1 hrun
  obtain ⟨hconfig, hops, hframes, -⟩ := mixVoices_fields hmix
  exact ⟨hconfig, ⟨[f], by simp [hframes]⟩, hops⟩

theorem tone_keepsStreams {i : Chan} {w0 w1 w2 w3 : Word} {s t : State}
    (h : tone i w0 w1 w2 w3 s = .next t) : KeepsStreams s t := by
  obtain ⟨-, -, rfl⟩ := tone_eq_next.1 h
  exact ⟨by simp, ⟨[], by simp⟩, by simp⟩

theorem execInit_keepsStreams {w0 w1 w2 w3 : Word} {s t : State}
    (h : execInit w0 w1 w2 w3 s = .next t) : KeepsStreams s t := by
  obtain ⟨-, -, rfl⟩ := execInit_eq_next.1 h
  exact ⟨by simp, ⟨[], by simp⟩, by simp⟩

/-- No operation writes a parameter, takes back a frame or touches the pending operations. -/
theorem exec_keepsStreams {i : Instr} {s t : State} (h : exec i s = .next t) : KeepsStreams s t := by
  cases i with
  | tick => exact execTick_keepsStreams h
  | toneP0 => exact tone_keepsStreams h
  | toneP1 => exact tone_keepsStreams h
  | toneTri => exact tone_keepsStreams h
  | toneNoise => exact tone_keepsStreams h
  | init w0 w1 w2 w3 => exact execInit_keepsStreams (w3 := w3) h
  | reserved => cases h

/-- Settles O36: a step is idle, or executes the head of the stream, which it alone removes. -/
theorem parametersAndFramesAreKept : Obligations.ParametersAndFramesAreKept := by
  intro s t h
  rcases step_eq_next h with ⟨hops, rfl⟩ | ⟨w, rest, hops, hexec⟩
  · exact ⟨rfl, ⟨[], by simp⟩, by simp [hops]⟩
  · obtain ⟨hconfig, hframes, hrest⟩ := exec_keepsStreams hexec
    exact ⟨hconfig, hframes, by simp [hops, hrest]⟩

/-! ## The output stream -/

section pairs
variable {α β : Type} {f : α → List β} {fst snd : α → β} (hf : ∀ a, f a = [fst a, snd a])
include hf

/-- Element `n` of a list gives elements `2n` and `2n + 1` of the list of its pairs. -/
theorem getElem?_flatMap_pairs {l : List α} {n : Nat} {a : α} (h : l[n]? = some a) :
    (l.flatMap f)[2 * n]? = some (fst a) ∧ (l.flatMap f)[2 * n + 1]? = some (snd a) := by
  induction l generalizing n with
  | nil => simp at h
  | cons b l ih =>
    rw [List.flatMap_cons, hf]
    cases n with
    | zero =>
      obtain rfl : b = a := by simpa using h
      simp
    | succ n => simpa [Nat.mul_succ] using ih (by simpa using h)

theorem length_flatMap_pairs (l : List α) : (l.flatMap f).length = 2 * l.length := by
  simp [List.length_flatMap, hf, mul_comm]

end pairs

/-- The less significant byte of a sample. -/
def lowByte (x : BitVec 16) : BitVec 8 := x.extractLsb' 0 8

/-- The more significant byte of a sample. -/
def highByte (x : BitVec 16) : BitVec 8 := x.extractLsb' 8 8

/-- The two bytes give the sample's value. -/
theorem toNat_eq_bytes (x : BitVec 16) :
    x.toNat = (lowByte x).toNat + 2 ^ 8 * (highByte x).toNat := by
  have := x.isLt
  simp only [lowByte, highByte, BitVec.extractLsb'_toNat, Nat.shiftRight_eq_div_pow]
  omega

theorem sampleBytes_eq (e : Endian) (x : BitVec 16) :
    sampleBytes e x = [if e = .little then lowByte x else highByte x,
      if e = .little then highByte x else lowByte x] := by
  cases e <;> rfl

theorem frameSamples_eq (f : Frame) : frameSamples f = [f.left, f.right] := rfl

/-- Settles O56: frames are pairs of samples and samples are pairs of bytes. -/
theorem outputSerialisation : Obligations.OutputSerialisation := by
  refine ⟨fun s n f h => getElem?_flatMap_pairs frameSamples_eq h, fun s => ?_, fun s n x h => ?_⟩
  · have hs : (outputSamples s).length = 2 * s.frames.length :=
      length_flatMap_pairs frameSamples_eq s.frames
    have hb : (outputBytes s).length = 2 * (outputSamples s).length :=
      length_flatMap_pairs (sampleBytes_eq s.config.outEndian) (outputSamples s)
    omega
  · exact ⟨lowByte x, highByte x, toNat_eq_bytes x,
      getElem?_flatMap_pairs (sampleBytes_eq s.config.outEndian) h⟩

end Sys2Proof.Machine
end

section
/-! The step function on each shape of the pending stream. -/

namespace Sys2Proof.Machine

/-! ## Stepping -/

theorem takeOperation_of_ops_nil {s : State} (h : s.ops = []) : takeOperation s = none := by
  simp only [takeOperation, h]

theorem takeOperation_of_ops_cons {s : State} {w : OpBits} {rest : List OpBits}
    (h : s.ops = w :: rest) : takeOperation s = some (w, { s with ops := rest }) := by
  simp only [takeOperation, h]

/-- With nothing pending the state is held (R173). -/
theorem step_of_ops_nil {s : State} (h : s.ops = []) : step s = .next s := by
  simp only [step, takeOperation_of_ops_nil h]

/-- The oldest pending operation is removed, decoded and executed, whatever the outcome (R55). -/
theorem step_of_ops_cons {s : State} {w : OpBits} {rest : List OpBits} (h : s.ops = w :: rest) :
    step s = exec (decode w) { s with ops := rest } := by
  simp only [step, takeOperation_of_ops_cons h]

/-- Settles O6: the two shapes of the pending stream. -/
theorem stepRunsTheDecodedOperation : Obligations.StepRunsTheDecodedOperation :=
  ⟨fun _ _ _ h => step_of_ops_cons h, fun _ h => step_of_ops_nil h⟩

end Sys2Proof.Machine
end

section
/-!
SUPPORT. The encoding: decoder and encoder undo each other (R60, R61, R69), and the opcode map names the
row that is decoded (R73).
-/

namespace Sys2Proof.Machine

open Sys2Proof.Claims Sys2Proof.Laws

/-! ## Decoder and encoder -/

/-- The select code and the four words of an operation are all of its bits (R60). -/
theorem assemble_fields (w : OpBits) :
    assemble (opField w) (w0Field w) (w1Field w) (w2Field w) (w3Field w) = w := by
  change w.extractLsb' 128 2 ++ w.extractLsb' 96 32 ++ w.extractLsb' 64 32 ++ w.extractLsb' 32 32 ++
    w.extractLsb' 0 32 = w
  rw [BitVec.extractLsb'_append_extractLsb'_eq_extractLsb' (show 128 = 96 + 32 from rfl),
    BitVec.extractLsb'_append_extractLsb'_eq_extractLsb' (show 96 = 64 + 32 from rfl),
    BitVec.extractLsb'_append_extractLsb'_eq_extractLsb' (show 64 = 32 + 32 from rfl),
    BitVec.extractLsb'_append_extractLsb'_eq_extractLsb' (show 32 = 0 + 32 from rfl)]
  exact BitVec.extractLsb'_eq_self

theorem decode_assemble (op : BitVec 2) (w0 w1 w2 w3 : Word) :
    decode (assemble op w0 w1 w2 w3) = decodeFields op w0 w1 w2 w3 := by
  change decodeFields (opField _) (w0Field _) (w1Field _) (w2Field _) (w3Field _) = _
  rw [opField_assemble, w0Field_assemble, w1Field_assemble, w2Field_assemble, w3Field_assemble]

/-- A select code or a channel field is one of four values. -/
theorem two_bits_cases : ∀ b : BitVec 2, b = 0#2 ∨ b = 1#2 ∨ b = 2#2 ∨ b = 3#2 := by decide

section rows
variable {w0 w1 w2 w3 : Word}

theorem decodeTone_p0 (h : channelBits w3 = 0#2) :
    decodeTone w0 w1 w2 w3 = .toneP0 w0 w1 w2 w3 := if_pos h

theorem decodeTone_p1 (h : channelBits w3 = 1#2) :
    decodeTone w0 w1 w2 w3 = .toneP1 w0 w1 w2 w3 :=
  (if_neg (h ▸ by decide)).trans (if_pos h)

theorem decodeTone_tri (h : channelBits w3 = 2#2) :
    decodeTone w0 w1 w2 w3 = .toneTri w0 w1 w2 w3 :=
  (if_neg (h ▸ by decide)).trans <| (if_neg (h ▸ by decide)).trans (if_pos h)

theorem decodeTone_noise (h : channelBits w3 = 3#2) :
    decodeTone w0 w1 w2 w3 = .toneNoise w0 w1 w2 w3 :=
  (if_neg (h ▸ by decide)).trans <| (if_neg (h ▸ by decide)).trans (if_neg (h ▸ by decide))

variable (w0 w1 w2 w3)

/-- The TONE row that the channel field names admits the flags word and has select code 1 (R65, R90). -/
theorem decodeTone_spec : (decodeTone w0 w1 w2 w3).wellFormed = true ∧
    encode (decodeTone w0 w1 w2 w3) = assemble 1#2 w0 w1 w2 w3 := by
  rcases two_bits_cases (channelBits w3) with h | h | h | h
  · rw [decodeTone_p0 h]; exact ⟨beq_iff_eq.2 h, rfl⟩
  · rw [decodeTone_p1 h]; exact ⟨beq_iff_eq.2 h, rfl⟩
  · rw [decodeTone_tri h]; exact ⟨beq_iff_eq.2 h, rfl⟩
  · rw [decodeTone_noise h]; exact ⟨beq_iff_eq.2 h, rfl⟩

/-- The row a select code and four words name is well-formed, and its encoding is their operation. -/
theorem decodeFields_spec (op : BitVec 2) : (decodeFields op w0 w1 w2 w3).wellFormed = true ∧
    encode (decodeFields op w0 w1 w2 w3) = assemble op w0 w1 w2 w3 := by
  rcases two_bits_cases op with rfl | rfl | rfl | rfl
  · exact ⟨rfl, rfl⟩
  · exact decodeTone_spec w0 w1 w2 w3
  · exact ⟨rfl, rfl⟩
  · exact ⟨rfl, rfl⟩

end rows

/-- Settles O2: an operation is its select code and words, which name a row with that encoding. -/
theorem encodeOfDecode : Obligations.EncodeOfDecode := by
  intro w
  obtain ⟨hwf, henc⟩ := decodeFields_spec (w0Field w) (w1Field w) (w2Field w) (w3Field w) (opField w)
  exact ⟨hwf, henc.trans (assemble_fields w)⟩

/-- Settles O1: the select code and, in a TONE row, the channel field name the row again. -/
theorem decodeOfEncode : Obligations.DecodeOfEncode := by
  intro i hwf
  cases i with
  | tick => exact decode_assemble ..
  | init => exact decode_assemble ..
  | reserved => exact decode_assemble ..
  | toneP0 => exact (decode_assemble ..).trans (decodeTone_p0 (beq_iff_eq.1 hwf))
  | toneP1 => exact (decode_assemble ..).trans (decodeTone_p1 (beq_iff_eq.1 hwf))
  | toneTri => exact (decode_assemble ..).trans (decodeTone_tri (beq_iff_eq.1 hwf))
  | toneNoise => exact (decode_assemble ..).trans (decodeTone_noise (beq_iff_eq.1 hwf))

/-! ## The opcode map -/

/-- An operation decodes to the term of a row with its own words exactly when the row has its select
code and admits its flags word (R73). -/
theorem decode_eq_iff {w : OpBits} {i : Instr}
    (henc : encode i = assemble i.opCode (w0Field w) (w1Field w) (w2Field w) (w3Field w)) :
    decode w = i ↔ opField w = i.opCode ∧ i.wellFormed = true := by
  constructor
  · rintro rfl
    obtain ⟨hwf, hw⟩ := encodeOfDecode w
    exact ⟨by rw [← opField_assemble (decode w).opCode, ← henc, hw], hwf⟩
  · rintro ⟨hop, hwf⟩
    rw [← decodeOfEncode i hwf, henc, ← hop, assemble_fields]

/-- A row without a channel field is the one decoded exactly for the keys it matches. -/
theorem select_row_iff {w : OpBits} {i : Instr} {sel : BitVec 2} {row : BitVec 34}
    (henc : encode i = assemble i.opCode (w0Field w) (w1Field w) (w2Field w) (w3Field w))
    (hwf : i.wellFormed = true) (hop : i.opCode = sel) (hrow : row = sel ++ 0#32) :
    keyOf w &&& 0x300000000#34 = row ↔ decode w = i := by
  rw [decode_eq_iff henc, and_iff_left hwf, hop, keyOf, key_and_select, hrow, BitVec.append_left_inj]

/-- A key tells its select code and its flags word. -/
theorem key_inj {op sel : BitVec 2} {v w : Word} : op ++ v = sel ++ w ↔ op = sel ∧ v = w := by
  refine ⟨fun h => ?_, fun ⟨hop, hw⟩ => by rw [hop, hw]⟩
  obtain rfl : v = w := by rw [← slice_low (hi := op) (lo := v), h, slice_low]
  exact ⟨(BitVec.append_left_inj v).1 h, rfl⟩

/-- A TONE row is the one decoded exactly for the keys it matches. -/
theorem channel_row_iff {w : OpBits} {i : Instr} {c : BitVec 2} {row : BitVec 34}
    (henc : encode i = assemble i.opCode (w0Field w) (w1Field w) (w2Field w) (w3Field w))
    (hwf : i.wellFormed = (channelBits (w3Field w) == c))
    (hop : i.opCode = 1#2) (hrow : row = 1#2 ++ c.setWidth 32) :
    keyOf w &&& 0x300000003#34 = row ↔ decode w = i := by
  have hinj : ∀ c d : BitVec 2, c.setWidth 32 = d.setWidth 32 ↔ c = d := by decide
  rw [decode_eq_iff henc, hwf, hop, beq_iff_eq, keyOf, key_and_channel, hrow, key_inj, hinj]

/-- No row looks at a bit of the key outside the select code and the channel field. -/
theorem row_mask_of_mem {r : BitVec 34 × BitVec 34} (h : r ∈ opcodeMap) :
    0x300000003#34 &&& r.2 = r.2 := by
  have hall : (opcodeMap.all fun r => 0x300000003#34 &&& r.2 == r.2) = true := by decide
  exact beq_iff_eq.1 (List.all_eq_true.1 hall r h)

/-- A key matches exactly one row: the rows see 2 + 2 bits, and each of the sixteen values matches one. -/
theorem one_row_matches (op : BitVec 2) (w3 : Word) :
    (opcodeMap.filter fun r => (op ++ w3) &&& r.2 == r.1).length = 1 := by
  have hseen : ∀ r ∈ opcodeMap, ((op ++ w3) &&& r.2 == r.1) =
      ((op ++ (channelBits w3).setWidth 32 : BitVec 34) &&& r.2 == r.1) := by
    intro r hr
    rw [← key_and_channel, BitVec.and_assoc, row_mask_of_mem hr]
  have hall : ∀ op c : BitVec 2, (opcodeMap.filter fun r =>
      (op ++ c.setWidth 32 : BitVec 34) &&& r.2 == r.1).length = 1 := by decide
  rw [List.filter_congr hseen, hall]

/-- Settles O3: the rows partition the select codes and channel fields, by which the decoder names the
row. -/
theorem keyMatchesExactlyOneRow : Obligations.KeyMatchesExactlyOneRow := by
  refine ⟨fun k => ?_, fun w => ?_⟩
  · have hk : k.extractLsb' 32 2 ++ k.extractLsb' 0 32 = k :=
      (BitVec.extractLsb'_append_extractLsb'_eq_extractLsb' (show 32 = 0 + 32 from rfl)).trans
        BitVec.extractLsb'_eq_self
    rw [← hk]
    exact one_row_matches _ _
  · exact ⟨select_row_iff (sel := 0#2) rfl rfl rfl (by decide),
      channel_row_iff (c := 0#2) rfl rfl rfl (by decide),
      channel_row_iff (c := 1#2) rfl rfl rfl (by decide),
      channel_row_iff (c := 2#2) rfl rfl rfl (by decide),
      channel_row_iff (c := 3#2) rfl rfl rfl (by decide),
      select_row_iff (sel := 2#2) rfl rfl rfl (by decide),
      select_row_iff (sel := 3#2) rfl rfl rfl (by decide)⟩

end Sys2Proof.Machine
end

section
/-!
SUPPORT. The fields of the operand words and what depends on them: words placed from the host's table, words
packed from their fields (R72), the fields a TONE writes (R62, R96), the bits a row ignores (R64 to R67),
and WRITE_SAMPLES as TICKs of the stream (R145).
-/

namespace Sys2Proof.Machine

open Sys2Proof.Claims

/-! ## Words of the spec and of the host's table -/

/-- Settles O4: the decoder evaluated on each word. -/
theorem decodesWordsOfTheSpec : Obligations.DecodesWordsOfTheSpec := by
  unfold Obligations.DecodesWordsOfTheSpec
  decide

theorem withFetchWord_of_tableOperation {s : State} {nbits w : Nat} {op : OpBits}
    (h : tableOperation nbits w = some op) : s.withFetchWord nbits w = pushOperation op s := by
  simp only [State.withFetchWord, h]

/-- A word placed at the head of the stream is run next, on the state as it was before. -/
theorem step_pushOperation (w : OpBits) (s : State) :
    step (pushOperation w s) = exec (decode w) s :=
  step_of_ops_cons rfl

/-- Settles O7: a table word that decodes is an operation, which is placed at the head of the stream. -/
theorem placedWordRunsNext : Obligations.PlacedWordRunsNext := by
  intro s nbits w i h
  obtain ⟨op, hop, rfl⟩ := Option.map_eq_some_iff.1 h
  rw [withFetchWord_of_tableOperation hop, step_pushOperation]

/-! ## Slices of a word -/

/-- The value of a field of an operand word. -/
theorem toNat_slice (w : Word) (start len : Nat) :
    (w.extractLsb' start len).toNat = w.toNat / 2 ^ start % 2 ^ len := by
  rw [BitVec.extractLsb'_toNat, Nat.shiftRight_eq_div_pow]

theorem toNat_slice_low (w : Word) (len : Nat) :
    (w.extractLsb' 0 len).toNat = w.toNat % 2 ^ len := by
  rw [toNat_slice, Nat.pow_zero, Nat.div_one]

/-- The value of the topmost field. -/
theorem toNat_slice_top (w : Word) {start len : Nat} (h : start + len = 32) :
    (w.extractLsb' start len).toNat = w.toNat / 2 ^ start := by
  have hlt : w.toNat < 2 ^ start * 2 ^ len := by rw [← Nat.pow_add, h]; exact w.isLt
  rw [toNat_slice, Nat.mod_eq_of_lt (Nat.div_lt_of_lt_mul hlt)]

/-- Words with the same low `k` bits have the same fields inside those bits. -/
theorem slice_congr {v w : Word} {k start len : Nat} (h : v.toNat % 2 ^ k = w.toNat % 2 ^ k)
    (hk : start + len ≤ k) : v.extractLsb' start len = w.extractLsb' start len := by
  have hlow : v.setWidth k = w.setWidth k := by
    rw [← BitVec.toNat_inj, BitVec.toNat_setWidth, BitVec.toNat_setWidth, h]
  rw [← BitVec.extractLsb'_setWidth_of_le hk, hlow, BitVec.extractLsb'_setWidth_of_le hk]

/-! ## Words packed from fields -/

section packing
variable {lo hi k len : Nat}

/-- `k` bits with `len` bits placed above them have `k + len` bits. -/
theorem packed_lt (hlo : lo < 2 ^ k) (hhi : hi < 2 ^ len) : lo + hi * 2 ^ k < 2 ^ (k + len) :=
  calc lo + hi * 2 ^ k < 2 ^ k + hi * 2 ^ k := Nat.add_lt_add_right hlo _
    _ = (hi + 1) * 2 ^ k := by rw [Nat.succ_mul, Nat.add_comm]
    _ ≤ 2 ^ len * 2 ^ k := Nat.mul_le_mul_right _ hhi
    _ = 2 ^ (k + len) := by rw [Nat.mul_comm, Nat.pow_add]

theorem toNat_slice_ofNat (hlo : lo < 2 ^ len) (hword : len ≤ 32) :
    ((BitVec.ofNat 32 lo).extractLsb' 0 len).toNat = lo := by
  rw [toNat_slice_low, BitVec.toNat_ofNat, Nat.mod_mod_of_dvd _ (pow_dvd_pow 2 hword),
    Nat.mod_eq_of_lt hlo]

/-- A field placed on top of `k` bits reads back. -/
theorem toNat_slice_packed (hlo : lo < 2 ^ k) (hhi : hi < 2 ^ len) (hword : k + len ≤ 32) :
    ((BitVec.ofNat 32 (lo + hi * 2 ^ k)).extractLsb' k len).toNat = hi := by
  have hlt := (packed_lt hlo hhi).trans_le (Nat.pow_le_pow_right two_pos hword)
  rw [toNat_slice, BitVec.toNat_ofNat, Nat.mod_eq_of_lt hlt,
    Nat.add_mul_div_right _ _ (Nat.two_pow_pos k), Nat.div_eq_of_lt hlo, Nat.zero_add,
    Nat.mod_eq_of_lt hhi]

/-- A field placed on top of `k` bits leaves the fields inside them. -/
theorem slice_packed_below {start : Nat} (h : start + len ≤ k) (hword : k ≤ 32) :
    (BitVec.ofNat 32 (lo + hi * 2 ^ k)).extractLsb' start len =
      (BitVec.ofNat 32 lo).extractLsb' start len := by
  refine slice_congr ?_ h
  rw [BitVec.toNat_ofNat, BitVec.toNat_ofNat, Nat.mod_mod_of_dvd _ (pow_dvd_pow 2 hword),
    Nat.mod_mod_of_dvd _ (pow_dvd_pow 2 hword), Nat.add_mul_mod_self_right]

end packing

theorem asmFreq_fields {f1 f2 : Nat} (h1 : f1 < 2 ^ 16) (h2 : f2 < 2 ^ 16) :
    (freq1Field (BitVec.ofNat 32 (asmFreq f1 f2))).toNat = f1 ∧
    (freq2Field (BitVec.ofNat 32 (asmFreq f1 f2))).toNat = f2 := by
  rw [asmFreq, Nat.mod_eq_of_lt h1, Nat.mod_eq_of_lt h2]
  constructor
  · rw [freq1Field, slice_packed_below (by decide) (by decide), toNat_slice_ofNat h1 (by decide)]
  · exact toNat_slice_packed h1 h2 le_rfl

theorem asmDur_fields {a d s r : Nat} (ha : a < 2 ^ 8) (hd : d < 2 ^ 8) (hs : s < 2 ^ 8)
    (hr : r < 2 ^ 8) :
    (attackTicks (BitVec.ofNat 32 (asmDur a d s r))).toNat = a ∧
    (decayTicks (BitVec.ofNat 32 (asmDur a d s r))).toNat = d ∧
    (sustainTicks (BitVec.ofNat 32 (asmDur a d s r))).toNat = s ∧
    (releaseTicks (BitVec.ofNat 32 (asmDur a d s r))).toNat = r := by
  rw [asmDur, Nat.mod_eq_of_lt ha, Nat.mod_eq_of_lt hd, Nat.mod_eq_of_lt hs, Nat.mod_eq_of_lt hr]
  have hsr : s + r * 2 ^ 8 < 2 ^ 16 := packed_lt hs hr
  have hsrd : s + r * 2 ^ 8 + d * 2 ^ 16 < 2 ^ 24 := packed_lt hsr hd
  refine ⟨toNat_slice_packed hsrd ha le_rfl, ?_, ?_, ?_⟩
  · rw [decayTicks, slice_packed_below (by decide) (by decide),
      toNat_slice_packed hsr hd (by decide)]
  · rw [sustainTicks, slice_packed_below (by decide) (by decide),
      slice_packed_below (by decide) (by decide), slice_packed_below (by decide) (by decide),
      toNat_slice_ofNat hs (by decide)]
  · rw [releaseTicks, slice_packed_below (by decide) (by decide),
      slice_packed_below (by decide) (by decide), toNat_slice_packed hs hr (by decide)]

theorem asmVol_fields {peak sus : Nat} (hp : peak < 2 ^ 8) (hs : sus < 2 ^ 8) :
    (peakByte (BitVec.ofNat 32 (asmVol peak sus))).toNat = peak ∧
    (sustainByte (BitVec.ofNat 32 (asmVol peak sus))).toNat = sus := by
  rw [asmVol, Nat.mod_eq_of_lt hp, Nat.mod_eq_of_lt hs]
  constructor
  · exact toNat_slice_packed hs hp (by decide)
  · rw [sustainByte, slice_packed_below (by decide) (by decide), toNat_slice_ofNat hs (by decide)]

theorem asmFlags_fields {c mode pan : Nat} (hc : c < 2 ^ 2) (hm : mode < 2 ^ 2) (hp : pan < 2 ^ 2) :
    (channelBits (BitVec.ofNat 32 (asmFlags c mode pan))).toNat = c ∧
    (modeField (BitVec.ofNat 32 (asmFlags c mode pan))).toNat = mode ∧
    (panField (BitVec.ofNat 32 (asmFlags c mode pan))).toNat = pan := by
  rw [asmFlags, Nat.mod_eq_of_lt hc, Nat.mod_eq_of_lt hm, Nat.mod_eq_of_lt hp]
  have hcm : c + mode * 2 ^ 2 < 2 ^ 4 := packed_lt hc hm
  refine ⟨?_, ?_, toNat_slice_packed hcm hp (by decide)⟩
  · rw [channelBits, slice_packed_below (by decide) (by decide),
      slice_packed_below (by decide) (by decide), toNat_slice_ofNat hc (by decide)]
  · rw [modeField, slice_packed_below (by decide) (by decide),
      toNat_slice_packed hc hm (by decide)]

/-- Settles O5: each word is the sum of its arguments at their places, with no carry between. -/
theorem macrosFillTheirFields : Obligations.MacrosFillTheirFields :=
  ⟨fun _ _ h1 h2 => asmFreq_fields h1 h2, fun _ _ _ _ ha hd hs hr => asmDur_fields ha hd hs hr,
    fun _ _ hp hs => asmVol_fields hp hs, fun _ _ _ hc hm hp => asmFlags_fields hc hm hp⟩

/-! ## The fields a TONE writes -/

@[simp] theorem exec_toneOf (i : Chan) (w0 w1 w2 w3 : Word) (s : State) :
    exec (toneOf i w0 w1 w2 w3) s = tone i w0 w1 w2 w3 s := by
  cases i <;> rfl

/-- The release marker in the model's fields is the one written out on the bytes of W1 (R93, R98). -/
theorem releaseMarker_eq_releaseEnd (i : Chan) (s : State) (w1 : Word) :
    releaseMarker i s.cfgSR s.time w1 = releaseEnd i s w1 := by
  have hattack : (attackTicks w1).toNat = w1.toNat / 2 ^ 24 := toNat_slice_top w1 rfl
  have hdecay : (decayTicks w1).toNat = w1.toNat / 2 ^ 16 % 2 ^ 8 := toNat_slice w1 16 8
  have hsustain : (sustainTicks w1).toNat = w1.toNat % 2 ^ 8 := toNat_slice_low w1 8
  have hrelease : (releaseTicks w1).toNat = w1.toNat / 2 ^ 8 % 2 ^ 8 := toNat_slice w1 8 8
  simp only [releaseMarker, sustainMarker, decayMarker, attackMarker, antiPop, ticksToSamples,
    releaseEnd, sustainEnd, decayEnd, attackEnd, samplesOf, ← BitVec.toNat_inj, hattack, hdecay,
    hsustain, hrelease, BitVec.toNat_zero]

/-- A TONE that is not refused answers what it writes (R90). -/
theorem exec_toneOf_of_accepts {i : Chan} {s : State} {w1 : Word} (h : Accepts i s w1)
    (w0 w2 w3 : Word) : exec (toneOf i w0 w1 w2 w3) s = .next (toneWrite i w0 w1 w2 w3 s) := by
  obtain ⟨hinit, hend⟩ := h
  rw [exec_toneOf, tone_eq_next, releaseMarker_eq_releaseEnd]
  exact ⟨hinit, hend, rfl⟩

/-- Settles O20: the record an accepted TONE writes holds the three fields. -/
theorem toneSetsFrequenciesAndPan : Obligations.ToneSetsFrequenciesAndPan := by
  intro i w0 w1 w2 w3 s h
  refine ⟨_, exec_toneOf_of_accepts h w0 w2 w3, ?_⟩
  rw [chan_toneWrite_self]
  exact ⟨toNat_slice_low w0 16, toNat_slice_top w0 rfl, toNat_slice w3 4 2⟩

/-! ## Ignored bits -/

theorem toneWrite_congr {i : Chan} {w0 w1 w2 w3 v2 v3 : Word} {s : State}
    (hpeak : peakByte v2 = peakByte w2) (hsustain : sustainByte v2 = sustainByte w2)
    (hmode : modeField v3 = modeField w3) (hpan : panField v3 = panField w3) :
    toneWrite i w0 w1 v2 v3 s = toneWrite i w0 w1 w2 w3 s := by
  simp only [toneWrite, toneChannel, peakLevel, sustainLevel, hpeak, hsustain, hmode, hpan]

theorem initWrite_congr {w0 w1 w2 v1 v2 : Word} {s : State}
    (hvol : maxVolumeField v1 = maxVolumeField w1)
    (htri : maxVolumeTriField v2 = maxVolumeTriField w2) :
    initWrite w0 v1 v2 s = initWrite w0 w1 w2 s := by
  simp only [initWrite, hvol, htri]

theorem badMaxVolume_congr {w1 w2 v1 v2 : Word}
    (hvol : maxVolumeField v1 = maxVolumeField w1)
    (htri : maxVolumeTriField v2 = maxVolumeTriField w2) :
    badMaxVolume v1 v2 = badMaxVolume w1 w2 := by
  simp only [badMaxVolume, hvol, htri]

/-- Settles O38: what completes is told by the fields alone, and these lie outside the ignored bits. -/
theorem ignoredBitsHaveNoEffect : Obligations.IgnoredBitsHaveNoEffect := by
  refine ⟨fun w0 w1 w2 w3 v0 v1 v2 v3 s t h => ?_, fun i w0 w1 w2 w3 v2 v3 s t h2 h3 h => ?_,
    fun w0 w1 w2 w3 v1 v2 v3 s t h1 h2 h => ?_⟩
  · exact execTick_eq_next.2 (execTick_eq_next.1 h)
  · rw [exec_toneOf, tone_eq_next] at h ⊢
    rwa [toneWrite_congr (slice_congr h2 (by decide)) (slice_congr h2 (by decide))
      (slice_congr h3 (by decide)) (slice_congr h3 (by decide))]
  · have hvol : maxVolumeField v1 = maxVolumeField w1 := slice_congr h1 le_rfl
    have htri : maxVolumeTriField v2 = maxVolumeTriField w2 := slice_congr h2 le_rfl
    refine (execInit_eq_next (w3 := v3)).2 ?_
    rw [badMaxVolume_congr hvol htri, initWrite_congr hvol htri]
    exact (execInit_eq_next (w3 := w3)).1 h

/-! ## WRITE_SAMPLES and the stream -/

/-- The state with other frames already emitted and other operations pending. -/
def withStreams (fs : List Frame) (ws : List OpBits) (s : State) : State :=
  { s with frames := fs ++ s.frames, ops := ws }

/-- What an answer's next state answers in turn; a stop is kept. -/
def andThen {σ φ ρ : Type} (a : Host.Outcome σ φ ρ) (f : σ → Host.Outcome σ φ ρ) :
    Host.Outcome σ φ ρ :=
  match a with
  | .next t => f t
  | .fault r => .fault r
  | .refused r => .refused r

section streams
variable (fs : List Frame) (ws : List OpBits)

@[simp] theorem withStreams_time (s : State) : (withStreams fs ws s).time = s.time := rfl
@[simp] theorem withStreams_inited (s : State) : (withStreams fs ws s).inited = s.inited := rfl
@[simp] theorem chan_withStreams (s : State) (i : Chan) :
    chan (withStreams fs ws s) i = chan s i := by cases i <;> rfl

theorem emit_withStreams (f : Frame) (s : State) :
    emit f (withStreams fs ws s) = withStreams fs ws (emit f s) :=
  congrArg (fun l => { s with frames := l, ops := ws }) (List.append_assoc fs s.frames [f])

/-- A generator reads neither stream (R38, R59). -/
theorem voice_withStreams (i : Chan) (t : BitVec 64) (s : State) :
    voice i t (withStreams fs ws s) = (voice i t s).map (Prod.map (withStreams fs ws) id) := by
  cases i <;> simp only [voice, Option.map_map] <;> rfl

theorem mixVoice_withStreams (i : Chan) (t : BitVec 64) (s : State) (acc : Frame) :
    mixVoice i t (withStreams fs ws s) acc =
      (mixVoice i t s acc).map (Prod.map (withStreams fs ws) id) := by
  unfold mixVoice
  rw [chan_withStreams, voice_withStreams]
  split
  · rw [Option.map_map, Option.map_map]; rfl
  · rfl

theorem mixVoices_withStreams (t : BitVec 64) (l : List Chan) (s : State) (acc : Frame) :
    mixVoices t l (withStreams fs ws s) acc =
      (mixVoices t l s acc).map (Prod.map (withStreams fs ws) id) := by
  induction l generalizing s acc with
  | nil => rfl
  | cons i rest ih =>
    rw [mixVoices, mixVoices, mixVoice_withStreams]
    rcases mixVoice i t s acc with _ | ⟨s', acc'⟩
    · rfl
    · exact ih s' acc'

theorem tickRun_withStreams (s : State) :
    tickRun (withStreams fs ws s) = andThen (tickRun s) fun t => .next (withStreams fs ws t) := by
  unfold tickRun
  rw [withStreams_time, mixVoices_withStreams]
  rcases mixVoices s.time channelOrder s silence with _ | ⟨s', f⟩
  · rfl
  · exact congrArg (fun u => (.next (setTime (s.time + 1#64) u) : Answer))
      (emit_withStreams fs ws f s')

/-- A TICK reads neither stream (R38, R59). -/
theorem execTick_withStreams (w0 w1 w2 w3 : Word) (s : State) :
    execTick w0 w1 w2 w3 (withStreams fs ws s) =
      andThen (execTick w0 w1 w2 w3 s) fun t => .next (withStreams fs ws t) := by
  unfold execTick
  rw [withStreams_inited, withStreams_time, tickRun_withStreams]
  split
  · rfl
  · split <;> rfl

end streams

theorem decode_asmTick : decode asmTick = .tick 0#32 0#32 0#32 0#32 := decode_assemble ..

/-- A TICK word at the head of the stream runs a TICK, whatever is pending behind it. -/
theorem step_asmTick (ws : List OpBits) (s : State) :
    core.step (withStreams [] (asmTick :: ws) s) =
      andThen (execTick 0#32 0#32 0#32 0#32 s) fun t => .next (withStreams [] ws t) :=
  calc step (pushOperation asmTick (withStreams [] ws s))
    _ = exec (decode asmTick) (withStreams [] ws s) := step_pushOperation ..
    _ = execTick 0#32 0#32 0#32 0#32 (withStreams [] ws s) := by rw [decode_asmTick]; rfl
    _ = _ := execTick_withStreams ..

theorem run_succ (M : Host.Core) (n : Nat) (s : M.State) :
    M.run (n + 1) s = andThen (M.step s) (M.run n) := by
  change (match M.step s with
    | .next t => M.run n t
    | .fault r => .fault r
    | .refused r => .refused r) = _
  cases M.step s <;> rfl

theorem writeSamples_succ (n : Nat) (s : State) :
    (writeSamples (n + 1) s).2 =
      andThen (execTick 0#32 0#32 0#32 0#32 s) fun t => (writeSamples n t).2 := by
  change (match execTick 0#32 0#32 0#32 0#32 s with
    | .next t => writeSamples n t
    | .fault r => (s, .fault r)
    | .refused r => (s, .refused r)).2 = _
  cases execTick 0#32 0#32 0#32 0#32 s <;> rfl

/-- Running as many steps as TICK words are pending ends as WRITE_SAMPLES does: by induction on their
number, for a TICK's answer is the same whatever is pending behind it. -/
theorem run_asmTicks (n : Nat) (s : State) (rest : List OpBits) :
    core.run n (withStreams [] (List.replicate n asmTick ++ rest) s) =
      (writeSamples n (withStreams [] rest s)).2 := by
  induction n generalizing s with
  | zero => rfl
  | succ n ih =>
    refine (run_succ core n _).trans ?_
    rw [List.replicate_succ, List.cons_append, step_asmTick, writeSamples_succ, execTick_withStreams]
    cases execTick 0#32 0#32 0#32 0#32 s with
    | next t => exact ih t
    | fault r => rfl
    | refused r => rfl

/-- Settles O29: the pending operations are the TICK words and the rest. -/
theorem writeSamplesIsTicksOfTheStream : Obligations.WriteSamplesIsTicksOfTheStream :=
  fun n s rest => run_asmTicks n s rest

end Sys2Proof.Machine
end

section
/-!
SUPPORT. The tone command, R90 to R99: the markers, volumes, phase and duty cycle of the record an accepted
TONE writes, what it leaves alone, and that a second TONE on the channel overwrites the first.
-/

namespace Sys2Proof.Machine

open Sys2Proof.Claims

theorem toNat_ofNat_of_lt {w n : Nat} (h : n < 2 ^ w) : (BitVec.ofNat w n).toNat = n :=
  (BitVec.toNat_ofNat ..).trans (Nat.mod_eq_of_lt h)

/-! ## Markers -/

section markers
variable (i : Chan) (s : State) (w1 : Word)

theorem attackMarker_eq_attackEnd : attackMarker s.cfgSR s.time w1 = attackEnd s w1 := by
  have hattack : (attackTicks w1).toNat = w1.toNat / 2 ^ 24 := toNat_slice_top w1 rfl
  rw [attackMarker, ticksToSamples, hattack, attackEnd, samplesOf]

theorem decayMarker_eq_decayEnd : decayMarker s.cfgSR s.time w1 = decayEnd s w1 := by
  have hdecay : (decayTicks w1).toNat = w1.toNat / 2 ^ 16 % 2 ^ 8 := toNat_slice w1 16 8
  rw [decayMarker, attackMarker_eq_attackEnd, ticksToSamples, hdecay, decayEnd, samplesOf]

theorem sustainMarker_eq_sustainEnd : sustainMarker s.cfgSR s.time w1 = sustainEnd s w1 := by
  have hsustain : (sustainTicks w1).toNat = w1.toNat % 2 ^ 8 := toNat_slice_low w1 8
  rw [sustainMarker, decayMarker_eq_decayEnd, ticksToSamples, hsustain, sustainEnd, samplesOf]

theorem time_le_attackEnd : s.time.toNat ≤ attackEnd s w1 := Nat.le_add_right ..

theorem attackEnd_le_decayEnd : attackEnd s w1 ≤ decayEnd s w1 := Nat.le_add_right ..

theorem decayEnd_le_sustainEnd : decayEnd s w1 ≤ sustainEnd s w1 := Nat.le_add_right ..

theorem sustainEnd_le_releaseEnd : sustainEnd s w1 ≤ releaseEnd i s w1 :=
  (Nat.le_add_right ..).trans (Nat.le_add_right ..)

end markers

/-- Settles O16: the markers do not decrease, so none wraps where the release marker has 64 bits. -/
theorem toneSetsMarkers : Obligations.ToneSetsMarkers := by
  intro i w0 w1 w2 w3 s h
  refine ⟨_, exec_toneOf_of_accepts h w0 w2 w3, ?_⟩
  have hrelease : releaseEnd i s w1 < 2 ^ 64 := Nat.lt_succ_of_le h.2
  have hsustain := (sustainEnd_le_releaseEnd i s w1).trans_lt hrelease
  have hdecay := (decayEnd_le_sustainEnd s w1).trans_lt hsustain
  have hattack := (attackEnd_le_decayEnd s w1).trans_lt hdecay
  rw [chan_toneWrite_self]
  simp only [toneChannel, attackMarker_eq_attackEnd, decayMarker_eq_decayEnd,
    sustainMarker_eq_sustainEnd, releaseMarker_eq_releaseEnd, true_and]
  exact ⟨toNat_ofNat_of_lt hattack, toNat_ofNat_of_lt hdecay, toNat_ofNat_of_lt hsustain,
    toNat_ofNat_of_lt hrelease⟩

/-! ## Volumes -/

theorem maxVolumeOf_toNat (s : State) (i : Chan) : (maxVolumeOf s i).toNat = maxOf s i := by
  cases i <;> rfl

theorem clampVolume_sustainByte (w2 : Word) :
    clampVolume (sustainByte w2) = min (w2.toNat % 2 ^ 8) 100 :=
  congrArg (min · 100) (toNat_slice_low w2 8)

theorem clampVolume_peakByte (w2 : Word) :
    clampVolume (peakByte w2) = min (w2.toNat / 2 ^ 8 % 2 ^ 8) 100 :=
  congrArg (min · 100) (toNat_slice w2 8 8)

/-- A clamped byte is at most 100 percent, so it scales no volume above its maximum. -/
theorem scaled_le (mx : Nat) (b : BitVec 8) : mx * clampVolume b / 100 ≤ mx :=
  Nat.div_le_of_le_mul ((Nat.mul_le_mul_left mx (min_le_right _ _)).trans_eq (mx.mul_comm 100))

theorem sustainLevel_le (mx : BitVec 16) (w2 : Word) : sustainLevel mx w2 ≤ mx.toNat :=
  scaled_le ..

theorem peakLevel_le (mx : BitVec 16) (w2 : Word) : peakLevel mx w2 ≤ mx.toNat := by
  unfold peakLevel
  split
  · exact le_rfl
  · exact scaled_le ..

section volumes
variable (i : Chan) (w0 w1 w2 w3 : Word) (s : State)

/-- The sustain volume a TONE writes has not wrapped (R95). -/
theorem toneChannel_sustainVolume_toNat :
    (toneChannel i w0 w1 w2 w3 s).sustainVolume.toNat = sustainLevel (maxVolumeOf s i) w2 :=
  toNat_ofNat_of_lt ((sustainLevel_le ..).trans_lt (maxVolumeOf s i).isLt)

/-- The peak volume a TONE writes has not wrapped (R95). -/
theorem toneChannel_peakVolume_toNat :
    (toneChannel i w0 w1 w2 w3 s).peakVolume.toNat = peakLevel (maxVolumeOf s i) w2 :=
  toNat_ofNat_of_lt ((peakLevel_le ..).trans_lt (maxVolumeOf s i).isLt)

end volumes

/-- Settles O17: both levels have 16 bits, and their bytes are those of W2. -/
theorem toneScalesVolumes : Obligations.ToneScalesVolumes := by
  intro i w0 w1 w2 w3 s h
  refine ⟨_, exec_toneOf_of_accepts h w0 w2 w3, ?_⟩
  rw [chan_toneWrite_self, toneChannel_sustainVolume_toNat, toneChannel_peakVolume_toNat,
    sustainLevel, peakLevel, clampVolume_sustainByte, clampVolume_peakByte, maxVolumeOf_toNat]
  exact ⟨rfl, rfl⟩

/-! ## Reciprocals of powers of two -/

/-- A natural of at most 2^24 is exact (R80). -/
theorem fp_natCast (m : FpFormat) {n : Nat} (h : n ≤ 2 ^ 24) :
    fp m n = .fin false (n * oneMag m) := by
  rw [fp_small m (n := n) h, decide_eq_false (Int.natCast_nonneg n).not_gt, Int.natAbs_natCast]

/-- The quotient of 1 by a power of two of at most 2^24 is exact (R15). -/
theorem fdiv_one_two_pow (m : FpFormat) {n k : Nat} (hn : n = 2 ^ k) (hk : k ≤ 24) :
    fdiv m (fp m 1) (fp m n) = .fin false (2 ^ (unitExp m - k)) := by
  have hone : fp m 1 = .fin false (1 * oneMag m) := fp_natCast m (n := 1) (by decide)
  have hden : fp m n = .fin false (n * oneMag m) :=
    fp_natCast m (hn ▸ Nat.pow_le_pow_right two_pos hk)
  have hpos : 0 < n * oneMag m := Nat.mul_pos (hn ▸ Nat.two_pow_pos k) (oneMag_pos m)
  have hunit : oneMag m = 2 ^ (unitExp m - k) * n := by
    have := unitExp_ge_149 m
    rw [hn, ← Nat.pow_add, Nat.sub_add_cancel (by omega), oneMag]
  have hnum : 1 * oneMag m * oneMag m = 2 ^ (unitExp m - k) * (n * oneMag m) := by
    rw [Nat.one_mul, ← Nat.mul_assoc, ← hunit]
  have hfits : FitsBits (prec m) (2 ^ (unitExp m - k)) :=
    Nat.one_mul (2 ^ _) ▸ fitsBits_mul_pow (one_le_prec m) Nat.one_le_two_pow
  have hlt : 2 ^ (unitExp m - k) < limitMag m :=
    Nat.pow_lt_pow_right one_lt_two (by have := topExp_ge_128 m; omega)
  rw [hone, hden, fdiv_fin m _ _ _ hpos.ne', hnum]
  exact roundTo_exact m hpos hfits hlt

theorem duty_eq_fdiv (m : FpFormat) (mode : BitVec 2) :
    duty m mode = fdiv m (fp m 1)
      (fp m (if mode.toNat = 0 then 8 else if mode.toNat = 2 then 2 else 4)) := by
  simp only [duty, ← BitVec.toNat_inj, BitVec.toNat_ofNat, Nat.reduceMod, Nat.reducePow]
  split
  · exact (fdiv_one_two_pow m (n := 8) (k := 3) rfl (by decide)).symm
  · split
    · exact (fdiv_one_two_pow m (n := 2) (k := 1) rfl (by decide)).symm
    · exact (fdiv_one_two_pow m (n := 4) (k := 2) rfl (by decide)).symm

theorem retriggerPhase_eq (m : FpFormat) (i : Chan) :
    retriggerPhase m i = if i = .tri then fdiv m (fp m 1) (fp m 4) else fp m 0 := by
  cases i with
  | tri => exact (fdiv_one_two_pow m (n := 4) (k := 2) rfl (by decide)).symm
  | p0 => exact (fp_zero m).symm
  | p1 => exact (fp_zero m).symm
  | noise => exact (fp_zero m).symm

/-! ## Phase and duty cycle -/

/-- Settles O18: the phase is reset by the idle test on the record before. -/
theorem toneRetriggersIdleChannels : Obligations.ToneRetriggersIdleChannels := by
  intro i w0 w1 w2 w3 s h
  refine ⟨_, exec_toneOf_of_accepts h w0 w2 w3, ?_, toneWrite_seed .., toneWrite_lastRandom ..⟩
  rw [chan_toneWrite_self, toneChannel, tonePhase, idle, retriggerPhase_eq]
  simp only [decide_eq_true_eq]

/-- Settles O19: only a pulse channel has a duty cycle, and the mode is W3[3:2]. -/
theorem toneSetsDutyCycle : Obligations.ToneSetsDutyCycle := by
  intro i w0 w1 w2 w3 s h
  refine ⟨_, exec_toneOf_of_accepts h w0 w2 w3, ?_⟩
  have hmode : (modeField w3).toNat = w3.toNat / 4 % 4 := toNat_slice w3 2 2
  rw [toneWrite_duty0, toneWrite_duty1, duty_eq_fdiv, hmode]
  exact ⟨rfl, rfl⟩

/-! ## What a TONE leaves alone -/

/-- Settles O21: the frame of the one write a TONE makes; what its two refusals do not take completes. -/
theorem toneTouchesOneChannel : Obligations.ToneTouchesOneChannel := by
  refine ⟨fun i w0 w1 w2 w3 s t h => ?_,
    fun i w0 w1 w2 w3 s h => ⟨_, exec_toneOf_of_accepts h w0 w2 w3⟩⟩
  rw [exec_toneOf] at h
  obtain ⟨-, -, rfl⟩ := tone_eq_next.1 h
  have hchan (j : Chan) (hj : j ≠ i) : chan (toneWrite i w0 w1 w2 w3 s) j = chan s j :=
    chan_toneWrite_ne i w0 w1 w2 w3 s hj
  have hduty0 (hi : i ≠ .p0) : (toneWrite i w0 w1 w2 w3 s).duty0 = s.duty0 :=
    (toneWrite_duty0 ..).trans (if_neg hi)
  have hduty1 (hi : i ≠ .p1) : (toneWrite i w0 w1 w2 w3 s).duty1 = s.duty1 :=
    (toneWrite_duty1 ..).trans (if_neg hi)
  simp only [toneWrite_config, toneWrite_ops, toneWrite_frames, toneWrite_cfgSR, toneWrite_cfgMAXV,
    toneWrite_cfgMAXVTRI, toneWrite_time, toneWrite_inited, toneWrite_seed, toneWrite_lastRandom,
    true_and]
  exact ⟨hchan, hduty0, hduty1⟩

/-! ## Two TONEs on one channel -/

theorem time_le_releaseMarker (i : Chan) (s : State) (w1 : Word) :
    s.time.toNat ≤ releaseMarker i s.cfgSR s.time w1 :=
  calc s.time.toNat
    _ ≤ attackEnd s w1 := time_le_attackEnd s w1
    _ ≤ decayEnd s w1 := attackEnd_le_decayEnd s w1
    _ ≤ sustainEnd s w1 := decayEnd_le_sustainEnd s w1
    _ ≤ releaseEnd i s w1 := sustainEnd_le_releaseEnd i s w1
    _ = releaseMarker i s.cfgSR s.time w1 := (releaseMarker_eq_releaseEnd i s w1).symm

theorem tonePhase_of_not_idle {m : FpFormat} {i : Chan} {t : BitVec 64} {c : Channel}
    (h : ¬ c.releaseTime.toNat < t.toNat) : tonePhase m i t c = c.phase := by
  rw [tonePhase, idle, decide_eq_false h]
  exact if_neg Bool.false_ne_true

@[simp] theorem maxVolumeOf_toneWrite (i j : Chan) (w0 w1 w2 w3 : Word) (s : State) :
    maxVolumeOf (toneWrite i w0 w1 w2 w3 s) j = maxVolumeOf s j := by
  cases j <;> simp [maxVolumeOf]

/-- Of two writes of a channel and its duty cycle the second remains. -/
theorem setDuty_setChan_overwrite (i : Chan) (d d' : Fp) (v v' : Channel) (s : State) :
    setDuty i d (setChan i v (setDuty i d' (setChan i v' s))) = setDuty i d (setChan i v s) := by
  cases i <;> rfl

section overwrite
variable {i : Chan} {s : State} {a1 : Word} (h : releaseMarker i s.cfgSR s.time a1 ≤ timeMax)
include h

/-- The record an accepted TONE writes is not idle at its own start. -/
theorem toneChannel_not_idle (a0 a2 a3 : Word) :
    ¬ (toneChannel i a0 a1 a2 a3 s).releaseTime.toNat < s.time.toNat := by
  have hwrap : (toneChannel i a0 a1 a2 a3 s).releaseTime.toNat = releaseMarker i s.cfgSR s.time a1 :=
    toNat_ofNat_of_lt (Nat.lt_succ_of_le h)
  rw [hwrap, Nat.not_lt]
  exact time_le_releaseMarker i s a1

/-- After an accepted TONE a second one writes what it would have written in the first one's place: it
keeps the phase, on which the first has done the reset (R91). -/
theorem toneWrite_toneWrite (a0 a2 a3 b0 b1 b2 b3 : Word) :
    toneWrite i b0 b1 b2 b3 (toneWrite i a0 a1 a2 a3 s) = toneWrite i b0 b1 b2 b3 s := by
  have hphase : tonePhase s.config.fpFormat i s.time (toneChannel i a0 a1 a2 a3 s) =
      tonePhase s.config.fpFormat i s.time (chan s i) :=
    tonePhase_of_not_idle (toneChannel_not_idle h a0 a2 a3)
  have hrecord : toneChannel i b0 b1 b2 b3 (toneWrite i a0 a1 a2 a3 s) =
      toneChannel i b0 b1 b2 b3 s := by
    rw [toneChannel, toneWrite_time, toneWrite_cfgSR, toneWrite_config, maxVolumeOf_toneWrite,
      chan_toneWrite_self, hphase]
    rfl
  rw [toneWrite, hrecord, toneWrite_config]
  exact setDuty_setChan_overwrite ..

end overwrite

/-- Settles O22: the refusals read nothing that a TONE writes, and the second write covers the first. -/
theorem secondToneOverwritesFirst : Obligations.SecondToneOverwritesFirst := by
  intro i a0 a1 a2 a3 b0 b1 b2 b3 s t h
  rw [exec_toneOf] at h
  obtain ⟨-, hrelease, rfl⟩ := tone_eq_next.1 h
  rw [exec_toneOf, exec_toneOf, tone, tone, toneWrite_inited, toneWrite_cfgSR, toneWrite_time,
    toneWrite_toneWrite hrelease]

end Sys2Proof.Machine
end
